-- ==== Sys2Proof/Word.lean ====
section
/-! DEFINITION. The word types of the core (spec/00_scope.md R8, R10, R11) and their plainest arithmetic. -/

namespace Sys2Proof

/-- An 8-bit value: a general register, a timer, a byte of memory (R8 REG_W, TIMER_W). -/
abbrev Byte := BitVec 8

/-- A 16-bit value: I, PC, a stack entry, an opcode (R8 I_W, PC_W, OPCODE_W). -/
abbrev Word16 := BitVec 16

/-- The 12-bit address field nnn (R71). -/
abbrev Addr12 := BitVec 12

/-- An index of a general register, 0..15 (R20, R72). -/
abbrev Reg := Fin 16

/-- The height field n of Dxyn: an unsigned count, 0..15 (R72). -/
abbrev Height := Fin 16

/-- A key code, 0x0..0xF (R8 NKEYS). -/
abbrev KeyCode := Fin 16

/-- A set of key codes: for each code, whether that key is down (R210 `IsPressed`). -/
abbrev KeySet := Vector Bool 16

/-- A pixel's place, (row, column) (R16). -/
abbrev Pixel := Fin 32 × Fin 64

/-- The grid `fb[row][col]`: 32 rows of 64 one-bit pixels (R32). -/
abbrev FrameBuffer := Vector (Vector Bool 64) 32

/-- VF, the register that also holds the flag (R21). -/
abbrev regF : Reg := 15

/-- `zext_16` of R11. -/
abbrev zext16 {w : Nat} (v : BitVec w) : Word16 := v.setWidth 16

end Sys2Proof
end

