-- ==== Sys2Proof/Syntax.lean ====
section
/-! DEFINITION. The instruction set: one constructor for each of the 34 rows of spec/opcode_table.json (spec/30_encoding.md R73, R79). -/

namespace Sys2Proof

/-- The 34 instructions, with their operands as the fields of R71 and R72. -/
inductive Instr where
  /-- 00E0 CLS (44_display.md R195). -/
  | cls
  /-- 00EE RET (41_control_flow.md R121). -/
  | ret
  /-- 1nnn JP nnn (R122). -/
  | jp (nnn : Addr12)
  /-- 2nnn CALL nnn (R123). -/
  | call (nnn : Addr12)
  /-- 3xkk SE Vx, kk (R124). -/
  | seImm (x : Reg) (kk : Byte)
  /-- 4xkk SNE Vx, kk (R125). -/
  | sneImm (x : Reg) (kk : Byte)
  /-- 5xy0 SE Vx, Vy (R126). -/
  | seReg (x y : Reg)
  /-- 6xkk LD Vx, kk (42_alu.md R141). -/
  | ldImm (x : Reg) (kk : Byte)
  /-- 7xkk ADD Vx, kk (R142). -/
  | addImm (x : Reg) (kk : Byte)
  /-- 8xy0 LD Vx, Vy (R143). -/
  | ldReg (x y : Reg)
  /-- 8xy1 OR Vx, Vy (R144). -/
  | orReg (x y : Reg)
  /-- 8xy2 AND Vx, Vy (R145). -/
  | andReg (x y : Reg)
  /-- 8xy3 XOR Vx, Vy (R146). -/
  | xorReg (x y : Reg)
  /-- 8xy4 ADD Vx, Vy (R147). -/
  | addReg (x y : Reg)
  /-- 8xy5 SUB Vx, Vy (R148). -/
  | sub (x y : Reg)
  /-- 8xy6 SHR Vx; y is decoded and ignored (R149, R77). -/
  | shr (x y : Reg)
  /-- 8xy7 SUBN Vx, Vy (R150). -/
  | subn (x y : Reg)
  /-- 8xyE SHL Vx; y is decoded and ignored (R151, R77). -/
  | shl (x y : Reg)
  /-- 9xy0 SNE Vx, Vy (41_control_flow.md R127). -/
  | sneReg (x y : Reg)
  /-- Annn LD I, nnn (43_index_memory.md R171). -/
  | ldI (nnn : Addr12)
  /-- Bnnn JP V0, nnn (41_control_flow.md R128). -/
  | jpV0 (nnn : Addr12)
  /-- Cxkk RND Vx, kk (42_alu.md R152). -/
  | rnd (x : Reg) (kk : Byte)
  /-- Dxyn DRW Vx, Vy, n (44_display.md R196). -/
  | drw (x y : Reg) (n : Height)
  /-- Ex9E SKP Vx (45_timers_keys.md R211). -/
  | skp (x : Reg)
  /-- ExA1 SKNP Vx (R212). -/
  | sknp (x : Reg)
  /-- Fx07 LD Vx, DT (R213). -/
  | ldVxDt (x : Reg)
  /-- Fx0A LD Vx, K (R214). -/
  | ldVxK (x : Reg)
  /-- Fx15 LD DT, Vx (R215). -/
  | ldDtVx (x : Reg)
  /-- Fx18 LD ST, Vx (R216). -/
  | ldStVx (x : Reg)
  /-- Fx1E ADD I, Vx (43_index_memory.md R172). -/
  | addI (x : Reg)
  /-- Fx29 LD F, Vx (R173). -/
  | ldF (x : Reg)
  /-- Fx33 LD B, Vx (R174). -/
  | ldB (x : Reg)
  /-- Fx55 LD [I], Vx (R175). -/
  | storeRegs (x : Reg)
  /-- Fx65 LD Vx, [I] (R176). -/
  | loadRegs (x : Reg)
deriving DecidableEq, Repr

end Sys2Proof
end

