-- ==== Sys2Proof/Decode.lean ====
section
/-! DEFINITION. The decoder, total on any 16-bit word, and the encoder (spec/30_encoding.md R70 to R78). -/

namespace Sys2Proof

/-- Why a word or a run of bytes is not an instruction. -/
inductive Reject where
  /-- The word matches no row of the opcode table (R76): the dispatcher raises UnknownInstruction for it. -/
  | unknownInstruction (op : Word16)
  /-- Fewer than the two bytes of an instruction were given; `fetch` never does so (R70). -/
  | tooShort
deriving DecidableEq, Repr

/-! The fields of an opcode word (R71). -/

/-- op, bits 15..12. -/
def fieldOp (op : Word16) : Nat := (op.extractLsb' 12 4).toNat

/-- x, bits 11..8. -/
def fieldX (op : Word16) : Reg := (op.extractLsb' 8 4).toFin

/-- y, bits 7..4. -/
def fieldY (op : Word16) : Reg := (op.extractLsb' 4 4).toFin

/-- n, bits 3..0. -/
def fieldN (op : Word16) : Height := (op.extractLsb' 0 4).toFin

/-- kk, bits 7..0. -/
def fieldKK (op : Word16) : Byte := op.extractLsb' 0 8

/-- nnn, bits 11..0. -/
def fieldNNN (op : Word16) : Addr12 := op.extractLsb' 0 12

/-- Family 8: the low nibble selects (R73). -/
def decode8 (op : Word16) : Except Reject Instr :=
  let x := fieldX op
  let y := fieldY op
  match (fieldN op).val with
  | 0x0 => .ok (.ldReg x y)
  | 0x1 => .ok (.orReg x y)
  | 0x2 => .ok (.andReg x y)
  | 0x3 => .ok (.xorReg x y)
  | 0x4 => .ok (.addReg x y)
  | 0x5 => .ok (.sub x y)
  | 0x6 => .ok (.shr x y)
  | 0x7 => .ok (.subn x y)
  | 0xE => .ok (.shl x y)
  | _ => .error (.unknownInstruction op)

/-- Family E: kk selects (R73). -/
def decodeE (op : Word16) : Except Reject Instr :=
  let x := fieldX op
  match (fieldKK op).toNat with
  | 0x9E => .ok (.skp x)
  | 0xA1 => .ok (.sknp x)
  | _ => .error (.unknownInstruction op)

/-- Family F: kk selects (R73). -/
def decodeF (op : Word16) : Except Reject Instr :=
  let x := fieldX op
  match (fieldKK op).toNat with
  | 0x07 => .ok (.ldVxDt x)
  | 0x0A => .ok (.ldVxK x)
  | 0x15 => .ok (.ldDtVx x)
  | 0x18 => .ok (.ldStVx x)
  | 0x1E => .ok (.addI x)
  | 0x29 => .ok (.ldF x)
  | 0x33 => .ok (.ldB x)
  | 0x55 => .ok (.storeRegs x)
  | 0x65 => .ok (.loadRegs x)
  | _ => .error (.unknownInstruction op)

/-- The instruction of a word, by exact match of every fixed digit (R73, R74; the spec's decision D24, log 21). -/
def decode (op : Word16) : Except Reject Instr :=
  let x := fieldX op
  let y := fieldY op
  let kk := fieldKK op
  let nnn := fieldNNN op
  match fieldOp op with
  | 0x0 =>
    match nnn.toNat with
    | 0x0E0 => .ok .cls
    | 0x0EE => .ok .ret
    | _ => .error (.unknownInstruction op)
  | 0x1 => .ok (.jp nnn)
  | 0x2 => .ok (.call nnn)
  | 0x3 => .ok (.seImm x kk)
  | 0x4 => .ok (.sneImm x kk)
  | 0x5 =>
    match (fieldN op).val with
    | 0 => .ok (.seReg x y)
    | _ => .error (.unknownInstruction op)
  | 0x6 => .ok (.ldImm x kk)
  | 0x7 => .ok (.addImm x kk)
  | 0x8 => decode8 op
  | 0x9 =>
    match (fieldN op).val with
    | 0 => .ok (.sneReg x y)
    | _ => .error (.unknownInstruction op)
  | 0xA => .ok (.ldI nnn)
  | 0xB => .ok (.jpV0 nnn)
  | 0xC => .ok (.rnd x kk)
  | 0xD => .ok (.drw x y (fieldN op))
  | 0xE => decodeE op
  | 0xF => decodeF op
  | _ => .error (.unknownInstruction op)

/-- The word of two consecutive bytes, big-endian: the byte at the lower address is bits 15..8 (R54, R70). -/
def wordOfBytes (first second : Byte) : Word16 := first ++ second

/-- The instruction at the head of a run of bytes, with the bytes after it. -/
def decodeBytes : List Byte → Except Reject (Instr × List Byte)
  | b0 :: b1 :: rest =>
    match decode (wordOfBytes b0 b1) with
    | .ok i => .ok (i, rest)
    | .error e => .error e
  | _ => .error .tooShort

/-- A 4-bit field holding a register index or a height. -/
def nibble (k : Fin 16) : BitVec 4 := BitVec.ofFin k

/-- The word of an instruction: its pattern's digits with its operands in their fields (R71, R73). -/
def encode : Instr → Word16
  | .cls => 0x00E0#16
  | .ret => 0x00EE#16
  | .jp nnn => 0x1#4 ++ nnn
  | .call nnn => 0x2#4 ++ nnn
  | .seImm x kk => 0x3#4 ++ nibble x ++ kk
  | .sneImm x kk => 0x4#4 ++ nibble x ++ kk
  | .seReg x y => 0x5#4 ++ nibble x ++ nibble y ++ 0x0#4
  | .ldImm x kk => 0x6#4 ++ nibble x ++ kk
  | .addImm x kk => 0x7#4 ++ nibble x ++ kk
  | .ldReg x y => 0x8#4 ++ nibble x ++ nibble y ++ 0x0#4
  | .orReg x y => 0x8#4 ++ nibble x ++ nibble y ++ 0x1#4
  | .andReg x y => 0x8#4 ++ nibble x ++ nibble y ++ 0x2#4
  | .xorReg x y => 0x8#4 ++ nibble x ++ nibble y ++ 0x3#4
  | .addReg x y => 0x8#4 ++ nibble x ++ nibble y ++ 0x4#4
  | .sub x y => 0x8#4 ++ nibble x ++ nibble y ++ 0x5#4
  | .shr x y => 0x8#4 ++ nibble x ++ nibble y ++ 0x6#4
  | .subn x y => 0x8#4 ++ nibble x ++ nibble y ++ 0x7#4
  | .shl x y => 0x8#4 ++ nibble x ++ nibble y ++ 0xE#4
  | .sneReg x y => 0x9#4 ++ nibble x ++ nibble y ++ 0x0#4
  | .ldI nnn => 0xA#4 ++ nnn
  | .jpV0 nnn => 0xB#4 ++ nnn
  | .rnd x kk => 0xC#4 ++ nibble x ++ kk
  | .drw x y n => 0xD#4 ++ nibble x ++ nibble y ++ nibble n
  | .skp x => 0xE#4 ++ nibble x ++ 0x9E#8
  | .sknp x => 0xE#4 ++ nibble x ++ 0xA1#8
  | .ldVxDt x => 0xF#4 ++ nibble x ++ 0x07#8
  | .ldVxK x => 0xF#4 ++ nibble x ++ 0x0A#8
  | .ldDtVx x => 0xF#4 ++ nibble x ++ 0x15#8
  | .ldStVx x => 0xF#4 ++ nibble x ++ 0x18#8
  | .addI x => 0xF#4 ++ nibble x ++ 0x1E#8
  | .ldF x => 0xF#4 ++ nibble x ++ 0x29#8
  | .ldB x => 0xF#4 ++ nibble x ++ 0x33#8
  | .storeRegs x => 0xF#4 ++ nibble x ++ 0x55#8
  | .loadRegs x => 0xF#4 ++ nibble x ++ 0x65#8

/-- The two bytes of an instruction as memory holds them, the lower address first (R54). -/
def encodeBytes (i : Instr) : List Byte :=
  [(encode i).extractLsb' 8 8, (encode i).extractLsb' 0 8]

/-- One row of the opcode table: an opcode selects the row when `opcode AND mask = match` (R74). -/
structure Row where
  pattern : String
  value : Word16
  mask : Word16
deriving DecidableEq, Repr

/-- The word matches the row (R74). -/
def Row.selects (r : Row) (op : Word16) : Bool := op &&& r.mask == r.value

/-- spec/opcode_table.json, its 34 rows in the table's order. -/
def opcodeTable : List Row :=
  [ ⟨"00E0", 0x00E0, 0xFFFF⟩,
    ⟨"00EE", 0x00EE, 0xFFFF⟩,
    ⟨"1nnn", 0x1000, 0xF000⟩,
    ⟨"2nnn", 0x2000, 0xF000⟩,
    ⟨"3xkk", 0x3000, 0xF000⟩,
    ⟨"4xkk", 0x4000, 0xF000⟩ ] ++
  [ ⟨"5xy0", 0x5000, 0xF00F⟩,
    ⟨"6xkk", 0x6000, 0xF000⟩,
    ⟨"7xkk", 0x7000, 0xF000⟩,
    ⟨"8xy0", 0x8000, 0xF00F⟩,
    ⟨"8xy1", 0x8001, 0xF00F⟩,
    ⟨"8xy2", 0x8002, 0xF00F⟩ ] ++
  [ ⟨"8xy3", 0x8003, 0xF00F⟩,
    ⟨"8xy4", 0x8004, 0xF00F⟩,
    ⟨"8xy5", 0x8005, 0xF00F⟩,
    ⟨"8xy6", 0x8006, 0xF00F⟩,
    ⟨"8xy7", 0x8007, 0xF00F⟩,
    ⟨"8xyE", 0x800E, 0xF00F⟩ ] ++
  [ ⟨"9xy0", 0x9000, 0xF00F⟩,
    ⟨"Annn", 0xA000, 0xF000⟩,
    ⟨"Bnnn", 0xB000, 0xF000⟩,
    ⟨"Cxkk", 0xC000, 0xF000⟩,
    ⟨"Dxyn", 0xD000, 0xF000⟩,
    ⟨"Ex9E", 0xE09E, 0xF0FF⟩ ] ++
  [ ⟨"ExA1", 0xE0A1, 0xF0FF⟩,
    ⟨"Fx07", 0xF007, 0xF0FF⟩,
    ⟨"Fx0A", 0xF00A, 0xF0FF⟩,
    ⟨"Fx15", 0xF015, 0xF0FF⟩,
    ⟨"Fx18", 0xF018, 0xF0FF⟩,
    ⟨"Fx1E", 0xF01E, 0xF0FF⟩ ] ++
  [ ⟨"Fx29", 0xF029, 0xF0FF⟩,
    ⟨"Fx33", 0xF033, 0xF0FF⟩,
    ⟨"Fx55", 0xF055, 0xF0FF⟩,
    ⟨"Fx65", 0xF065, 0xF0FF⟩ ]

/-- The row of the opcode table that an instruction belongs to. -/
def Instr.row : Instr → Row
  | .cls => ⟨"00E0", 0x00E0, 0xFFFF⟩
  | .ret => ⟨"00EE", 0x00EE, 0xFFFF⟩
  | .jp _ => ⟨"1nnn", 0x1000, 0xF000⟩
  | .call _ => ⟨"2nnn", 0x2000, 0xF000⟩
  | .seImm _ _ => ⟨"3xkk", 0x3000, 0xF000⟩
  | .sneImm _ _ => ⟨"4xkk", 0x4000, 0xF000⟩
  | .seReg _ _ => ⟨"5xy0", 0x5000, 0xF00F⟩
  | .ldImm _ _ => ⟨"6xkk", 0x6000, 0xF000⟩
  | .addImm _ _ => ⟨"7xkk", 0x7000, 0xF000⟩
  | .ldReg _ _ => ⟨"8xy0", 0x8000, 0xF00F⟩
  | .orReg _ _ => ⟨"8xy1", 0x8001, 0xF00F⟩
  | .andReg _ _ => ⟨"8xy2", 0x8002, 0xF00F⟩
  | .xorReg _ _ => ⟨"8xy3", 0x8003, 0xF00F⟩
  | .addReg _ _ => ⟨"8xy4", 0x8004, 0xF00F⟩
  | .sub _ _ => ⟨"8xy5", 0x8005, 0xF00F⟩
  | .shr _ _ => ⟨"8xy6", 0x8006, 0xF00F⟩
  | .subn _ _ => ⟨"8xy7", 0x8007, 0xF00F⟩
  | .shl _ _ => ⟨"8xyE", 0x800E, 0xF00F⟩
  | .sneReg _ _ => ⟨"9xy0", 0x9000, 0xF00F⟩
  | .ldI _ => ⟨"Annn", 0xA000, 0xF000⟩
  | .jpV0 _ => ⟨"Bnnn", 0xB000, 0xF000⟩
  | .rnd _ _ => ⟨"Cxkk", 0xC000, 0xF000⟩
  | .drw _ _ _ => ⟨"Dxyn", 0xD000, 0xF000⟩
  | .skp _ => ⟨"Ex9E", 0xE09E, 0xF0FF⟩
  | .sknp _ => ⟨"ExA1", 0xE0A1, 0xF0FF⟩
  | .ldVxDt _ => ⟨"Fx07", 0xF007, 0xF0FF⟩
  | .ldVxK _ => ⟨"Fx0A", 0xF00A, 0xF0FF⟩
  | .ldDtVx _ => ⟨"Fx15", 0xF015, 0xF0FF⟩
  | .ldStVx _ => ⟨"Fx18", 0xF018, 0xF0FF⟩
  | .addI _ => ⟨"Fx1E", 0xF01E, 0xF0FF⟩
  | .ldF _ => ⟨"Fx29", 0xF029, 0xF0FF⟩
  | .ldB _ => ⟨"Fx33", 0xF033, 0xF0FF⟩
  | .storeRegs _ => ⟨"Fx55", 0xF055, 0xF0FF⟩
  | .loadRegs _ => ⟨"Fx65", 0xF065, 0xF0FF⟩

/-- The instruction the decoder reads from an instruction whose bits, numbered as spec/opcode_table.json numbers
them, are the low `nbits` bits of `w`: the word is laid out big-endian, as memory holds it, and decoded. -/
def decodeTableWord (nbits w : Nat) : Option Instr :=
  let op : Word16 := BitVec.ofNat 16 (w % 2 ^ nbits)
  match decodeBytes [op.extractLsb' 8 8, op.extractLsb' 0 8] with
  | .ok (i, _) => some i
  | .error _ => none

end Sys2Proof
end

