-- ==== Sys2Proof/Config.lean ====
section
/-! DEFINITION. What an implementation of the core fixes (spec/00_scope.md R8, R9), and the values the spec leaves open: constants with no body, so that no proof can see what they are. -/

namespace Sys2Proof.Config

/-- MEM_SIZE (R8). -/
abbrev memSize : Nat := 4096

/-- STACK_DEPTH (R8). -/
abbrev stackDepth : Nat := 16

/-- PROG_BASE, also the reset value of PC (R8). -/
abbrev progBase : Word16 := 0x200

/-- PROG_MAX (R8). -/
abbrev progMax : Nat := 3584

/-- FREE VALUE. `speed` less one: the spec says only that `speed` is a positive integer (R9, D21; log 2). -/
opaque extraSlots : Nat

/-- The session's `speed` at reset: some positive number of slots per tick (R9, R288; log 2). -/
def speed : Nat := extraSlots + 1

/-- FREE VALUE. The byte of the `n`th random draw, where `env.draws` lists none (R152, R267, D22; log 4). -/
opaque randomByte : Nat → Byte

/-- FREE VALUE. `select_key` (R9, D11; log 5): which of the keys down is taken where the session's
`cfg.keyPicks` does not list the key set, as a number that `Machine.freeKey` reduces modulo how many are down. -/
opaque keyIndex : KeySet → Nat

/-- FREE VALUE. The key set the host supplies at the `n`th tick, where `env.inputs` lists none (R261; log 6). -/
opaque hostKeys : Nat → KeySet

/-- FREE VALUE. The cancellation signal the host supplies at the `n`th tick, where `env.inputs` lists none
(R261, R237; log 6). -/
opaque hostCancel : Nat → Bool

end Sys2Proof.Config
end

