-- ==== Sys2Proof/Machine/State.lean ====
section
/-! DEFINITION. All the state of the core (spec/10_state.md), as plain data, and the state after reset. -/

namespace Sys2Proof.Machine

/-- Why a core is halted, or never ran (60_exceptions.md R231). -/
inductive HaltCode where
  | unknownInstruction
  | stackOverflow
  | stackUnderflow
  | keyCodeOutOfRange
  | cancelled
  | programTooLarge
  | loadIOError
deriving DecidableEq, Repr

/-- A halt record (10_state.md R34): the reason, the word that caused it (0 where none applies), the address of the
instruction that caused it, and SP. -/
structure HaltRecord where
  code : HaltCode
  opcode : Word16
  pc : Word16
  sp : Byte
deriving DecidableEq, Repr

/-- The dispatcher's run state (10_state.md R33). -/
inductive RunState where
  /-- "ready to fetch". -/
  | runnable
  /-- "blocked on key press", by an Fx0A whose destination is `Vx`. -/
  | blocked (x : Reg)
  /-- The terminal state, with its record. -/
  | halted (h : HaltRecord)
deriving DecidableEq, Repr

/-- Memory as (address, byte) pairs: the addresses that do not hold what `Memory.fill` gives, strictly rising
(10_state.md R37; `Memory.wf`). -/
abbrev Memory := List Host.Cell

/-- Where the scheduler stands in a tick (60_exceptions.md R250; log 7). -/
inductive Phase where
  /-- No tick is running; the host may act (R261). -/
  | between
  /-- In the instruction phase, with this many of its slots left; at 0 the timer, tone and frame phases are next. -/
  | slots (left : Nat)
deriving DecidableEq, Repr

/-- What the host supplies before a tick (R261). -/
structure TickInput where
  /-- K, the keys that are down. -/
  keys : KeySet
  /-- The "close/cancel requested" signal (R237). -/
  cancel : Bool
deriving DecidableEq, Repr

/-- The session's configuration, owned by the host and fixed for the session (R266; log 3). -/
structure SessionConfig where
  /-- Instruction slots per tick; a positive integer (00_scope.md R9; log 2). -/
  speed : Nat
  /-- Whether rows wrap modulo 32 (R9, 44_display.md R193). -/
  wrapY : Bool
  /-- The session's `select_key`, as the member that it takes of each key set listed; of a key set that is not listed the
  choice is free (R9, R266; log 5). -/
  keyPicks : List (KeySet × KeyCode)
deriving DecidableEq, Repr

/-- The MODEL's own fields: what a claim or a test lists of the host's future inputs, and the counters that index
the free values of Config once a list is used up (logs 4 and 6). -/
structure HostScript where
  /-- The inputs of the next ticks, oldest first. -/
  inputs : List TickInput
  /-- How many ticks have begun. -/
  tickNo : Nat
  /-- The next random bytes, oldest first. -/
  draws : List Byte
  /-- How many random bytes have been taken. -/
  drawNo : Nat
deriving DecidableEq, Repr

/-- The core (10_state.md, "The state at a glance"), its scheduler and its host interface. -/
structure State where
  /-- V0..VF (R20, R21). -/
  V : Vector Byte 16
  /-- The index register (R23). -/
  I : Word16
  /-- The program counter (R24). -/
  PC : Word16
  /-- The return stack (R27). -/
  stack : Vector Word16 16
  /-- How many stack entries are occupied, 0..16 (R28). -/
  SP : Byte
  /-- DelayTimer (R29). -/
  DT : Byte
  /-- SoundTimer (R29). -/
  ST : Byte
  /-- The address space (R37). -/
  mem : Memory
  /-- The pixel buffer (R32). -/
  fb : FrameBuffer
  /-- The dispatcher's run state (R33). -/
  run : RunState
  /-- The tone state last sent to the audio collaborator (R35). -/
  tone : Bool
  /-- Where the scheduler stands in a tick (60_exceptions.md R250). -/
  phase : Phase
  /-- K, the key set sampled for the current tick (R261). -/
  keys : KeySet
  /-- The snapshot last handed to the rendering collaborator (R255; log 8). -/
  frame : Option FrameBuffer
  /-- The session's configuration (R266). -/
  cfg : SessionConfig
  /-- The model's own host script (logs 4 and 6). -/
  env : HostScript
deriving DecidableEq, Repr

/-- Why the machine stops with a fault. The spec's own fatal conditions are no faults here: they are taken, as
R233 describes them, and give a next state that is Halted (log 18). -/
inductive Fault where
  /-- Raised by CALL and RET in a state whose SP is above 16. R28 gives SP the values 0..16 and says it never
  leaves them, so no run meets it. SAFE: the model stops where the spec describes nothing (log 19). -/
  | stackPointerOutOfRange
deriving DecidableEq, Repr

/-- Why an instruction is refused. -/
inductive Refusal where
  /-- Raised by `exec` for an instruction that has no meaning yet; no arm raises it now. SAFE. -/
  | notModelled (mnemonic : String)
deriving DecidableEq, Repr

/-- What an instruction, a slot or a step answers. -/
abbrev Result := Host.Outcome State Fault Refusal

/-- Every key up. -/
def noKeys : KeySet := Vector.replicate 16 false

/-- `Clear()`: every pixel 0 (44_display.md R191). -/
def FrameBuffer.clear : FrameBuffer := Vector.replicate 32 (Vector.replicate 64 false)

/-- The state after `Reset()` and before program load (10_state.md R39, 70_reset_and_hazards.md R280): memory lists
nothing, so it reads as `Memory.fill` gives it, the font table and then zeros. The configuration and the model's own
fields: logs 2, 3, 4, 6, 7, 8, 22; that every session begins with these counters and empty lists: log 30. -/
def State.reset : State where
  V := Vector.replicate 16 0
  I := 0
  PC := Config.progBase
  stack := Vector.replicate 16 0
  SP := 0
  DT := 0
  ST := 0
  mem := []
  fb := FrameBuffer.clear
  run := .runnable
  tone := false
  phase := .between
  keys := noKeys
  frame := none
  cfg := { speed := Config.speed, wrapY := false, keyPicks := [] }
  env := { inputs := [], tickNo := 0, draws := [], drawNo := 0 }

end Sys2Proof.Machine
end

