-- ==== Sys2Proof/Machine/Ops.lean ====
section
/-! DEFINITION. The named operations over memory, the stack, the timers' and the run state's registers, the host's inputs, and raising a fatal condition (spec/20_memory.md, spec/10_state.md, spec/60_exceptions.md). -/

namespace Sys2Proof.Machine

/-! ## Memory -/

/-- The default font table (10_state.md R36): glyph d at 5·d, from general knowledge (log 1). -/
def defaultFont : Vector Byte 80 :=
  #v[0xF0, 0x90, 0x90, 0x90, 0xF0,  0x20, 0x60, 0x20, 0x20, 0x70,
     0xF0, 0x10, 0xF0, 0x80, 0xF0,  0xF0, 0x10, 0xF0, 0x10, 0xF0,
     0x90, 0x90, 0xF0, 0x10, 0x10,  0xF0, 0x80, 0xF0, 0x10, 0xF0,
     0xF0, 0x80, 0xF0, 0x90, 0xF0,  0xF0, 0x10, 0x20, 0x40, 0x40,
     0xF0, 0x90, 0xF0, 0x90, 0xF0,  0xF0, 0x90, 0xF0, 0x10, 0xF0,
     0xF0, 0x90, 0xF0, 0x90, 0x90,  0xE0, 0x90, 0xE0, 0x90, 0xE0,
     0xF0, 0x80, 0x80, 0x80, 0xF0,  0xE0, 0x90, 0x90, 0x90, 0xE0,
     0xF0, 0x80, 0xF0, 0x80, 0xF0,  0xF0, 0x80, 0xF0, 0x80, 0x80]

/-- What an address reads as when memory does not list it: the reset contents, the font table in 0x000..0x04F and
0x00 elsewhere (R39; log 1). -/
def Memory.fill (a : Nat) : Byte := if h : a < 80 then defaultFont[a] else 0

/-- The canonical form: addresses strictly rising, each below 4096, and no entry that equals what an unlisted
address reads as. -/
abbrev Memory.wf (m : Memory) : Prop :=
  List.Pairwise (fun c d : Host.Cell => c.1 < d.1) m ∧ ∀ c ∈ m, c.1 < Config.memSize ∧ c.2 ≠ Memory.fill c.1

/-- The byte at a physical address. -/
def Memory.read : Memory → Nat → Byte
  | [], a => Memory.fill a
  | c :: rest, a => if c.1 = a then c.2 else Memory.read rest a

/-- Puts a cell before the first cell of a higher address. -/
def Memory.insert (c : Host.Cell) : Memory → Memory
  | [] => [c]
  | d :: rest => if c.1 < d.1 then c :: d :: rest else d :: Memory.insert c rest

/-- Writes one byte at a physical address and changes nothing else (20_memory.md R53). -/
def Memory.write (m : Memory) (a : Nat) (v : Byte) : Memory :=
  let others := m.filter fun c => c.1 ≠ a
  if v = Memory.fill a then others else Memory.insert (a, v) others

/-- The reduction of every address the core forms: mod 4096 (R52; the spec's decision D4, log 10). -/
def physical (a : Word16) : Nat := a.toNat % Config.memSize

/-- `MemRead(a, 1)` (R53). -/
def State.readMem (s : State) (a : Word16) : Byte := Memory.read s.mem (physical a)

/-- `MemWrite(base + k, 1, v_k)` for the bytes `v_0, v_1, …` in increasing order of `k`; the sum `base + k` is mod 2^16
before the reduction (R52, R56). -/
def Memory.writeBytes (m : Memory) (base : Word16) : List Byte → Memory
  | [] => m
  | v :: rest => Memory.writeBytes (Memory.write m (physical base) v) (base + 1) rest

/-- `MemRead(base + k, 1)` for `k` in 0..n-1, in increasing order (R52, R56). -/
def State.readBytes (s : State) (base : Word16) : Nat → List Byte
  | 0 => []
  | n + 1 => s.readMem base :: s.readBytes (base + 1) n

/-- Stores bytes at `base`, `base + 1`, …. -/
def State.storeBytes (s : State) (base : Word16) (bytes : List Byte) : State :=
  { s with mem := Memory.writeBytes s.mem base bytes }

/-! ## Program counter and stack -/

/-- `PC <- target` (00_scope.md R12). -/
def State.jumpTo (s : State) (target : Word16) : State := { s with PC := target }

/-- The PC advance, the first write of a slot: `PC <- (PC + 2) mod 2^16` (40_dispatch_cycle.md R104; log 11). -/
def State.advance (s : State) : State := s.jumpTo (s.PC + 2)

/-- `stack[SP] <- v; SP <- SP + 1` (41_control_flow.md R123); none where the stack has no entry SP. -/
def State.push (s : State) (v : Word16) : Option State :=
  if h : s.SP.toNat < Config.stackDepth then some { s with stack := s.stack.set s.SP.toNat v, SP := s.SP + 1 } else none

/-- `SP <- SP - 1; PC <- stack[SP]` (R121); none where the stack has no entry SP - 1. -/
def State.popPC (s : State) : Option State :=
  if h : (s.SP - 1).toNat < Config.stackDepth then some { s with SP := s.SP - 1, PC := s.stack[(s.SP - 1).toNat] }
  else none

/-! ## The other registers -/

/-- `I <- v`. -/
def State.setIndex (s : State) (v : Word16) : State := { s with I := v }

/-- `DT <- v`. -/
def State.setDelay (s : State) (v : Byte) : State := { s with DT := v }

/-- `ST <- v`. -/
def State.setSound (s : State) (v : Byte) : State := { s with ST := v }

/-- Replaces the pixel buffer. -/
def State.setPixels (s : State) (fb : FrameBuffer) : State := { s with fb := fb }

/-- `run <- r`. -/
def State.setRun (s : State) (r : RunState) : State := { s with run := r }

/-! ## Fatal conditions and halting -/

/-- `raise Fatal(code)` by the word `op`, in the state BEFORE its fetch (60_exceptions.md R233, R240): every write of
the instruction is discarded, the PC advance included, and only the run state changes. There is no return from it:
a Halted core executes nothing (R241). Logs 18 and 24. -/
def State.raiseFatal (s : State) (code : HaltCode) (op : Word16) : State :=
  s.setRun (.halted { code := code, opcode := op, pc := s.PC, sp := s.SP })

/-- The numeric code of a halt reason (R231; the spec's decision D18). -/
def HaltCode.number : HaltCode → Nat
  | .unknownInstruction => 1
  | .stackOverflow => 2
  | .stackUnderflow => 3
  | .keyCodeOutOfRange => 4
  | .cancelled => 5
  | .programTooLarge => 16
  | .loadIOError => 17

/-- `block(x)` (40_dispatch_cycle.md R106). -/
def State.block (s : State) (x : Reg) : State := s.setRun (.blocked x)

/-! ## The host's inputs -/

/-- `rand()`: the next random byte, listed or free (42_alu.md R152; log 4). -/
def State.nextDraw (s : State) : Byte := s.env.draws.headD (Config.randomByte s.env.drawNo)

/-- The draw is taken: each Cxkk takes exactly one (R152, R267). -/
def State.takeDraw (s : State) : State :=
  { s with env := { s.env with draws := s.env.draws.tail, drawNo := s.env.drawNo + 1 } }

/-- The inputs of the tick that starts now, listed or free (60_exceptions.md R261; log 6). -/
def State.nextInput (s : State) : TickInput :=
  s.env.inputs.headD { keys := Config.hostKeys s.env.tickNo, cancel := Config.hostCancel s.env.tickNo }

/-- The inputs are taken: once per tick (R261). -/
def State.takeInput (s : State) : State :=
  { s with env := { s.env with inputs := s.env.inputs.tail, tickNo := s.env.tickNo + 1 } }

/-- The key codes, in rising order. -/
def keyCodes : List KeyCode := [0, 1, 2, 3, 4, 5, 6, 7, 8, 9, 10, 11, 12, 13, 14, 15]

/-- `IsPressed(code)` (45_timers_keys.md R210). -/
def isPressed (keys : KeySet) (k : KeyCode) : Bool := keys[k.val]

/-- The "enumerable set of currently pressed key codes" (R210). -/
def pressedKeys (keys : KeySet) : List KeyCode := keyCodes.filter (isPressed keys)

/-- A member of a nonempty key set, which one being free (D11; log 5); none where no key is down. -/
def freeKey (keys : KeySet) : Option KeyCode :=
  match pressedKeys keys with
  | [] => none
  | [k] => some k
  | k :: l :: rest => (k :: l :: rest)[Config.keyIndex keys % (rest.length + 2)]?

/-- `select_key`: the session's own choice where it lists a member of this key set, else a free one (00_scope.md R9, D11;
60_exceptions.md R266; log 5). A listed key that is not down is no member and is passed over. -/
def selectKey (picks : List (KeySet × KeyCode)) (keys : KeySet) : Option KeyCode :=
  match picks.find? fun p => decide (p.1 = keys) && isPressed keys p.2 with
  | some p => some p.2
  | none => freeKey keys

/-- Applies a change to the next state of an outcome; a fault or a refusal stays as it is. -/
def onNext (f : State → State) : Result → Result
  | .next s => .next (f s)
  | .fault r => .fault r
  | .refused r => .refused r

end Sys2Proof.Machine
end

