-- ==== Sys2Proof/Machine/Operands.lean ====
section
/-! DEFINITION. The operand forms: general registers, the index register's effective addresses, register blocks, decimal digits, glyph addresses, and the skip (spec/30_encoding.md R72, spec/43_index_memory.md R170). -/

namespace Sys2Proof.Machine

/-- `V[i]` (00_scope.md R12). -/
def State.reg (s : State) (i : Reg) : Byte := s.V[i.val]

/-- `V[i] <- v` (R12); a byte is already mod 256. -/
def State.setReg (s : State) (i : Reg) (v : Byte) : State := { s with V := s.V.set i.val v }

/-- The bytes V0..Vx, inclusive (43_index_memory.md R175). -/
def State.regsUpTo (s : State) (x : Reg) : List Byte := s.V.toList.take (x.val + 1)

/-- `V[k] <- b_k` for the bytes `b_0, b_1, …` in increasing order of `k`; the registers past the last byte are unchanged
(R176). -/
def State.loadBlock (s : State) (bytes : List Byte) : State :=
  { s with V := Vector.ofFn fun k => bytes.getD k.val (s.V[k.val]) }

/-- The effective address `I + k`, mod 2^16; memory reduces it further (R170). -/
def State.indexed (s : State) (k : Nat) : Word16 := s.I + BitVec.ofNat 16 k

/-- The three decimal digits of a byte: hundreds, tens, units (R174). -/
def decimalDigits (v : Byte) : List Byte :=
  [BitVec.ofNat 8 (v.toNat / 100 % 10), BitVec.ofNat 8 (v.toNat / 10 % 10), BitVec.ofNat 8 (v.toNat % 10)]

/-- The glyph address `5 * zext_16(v)` (R173). -/
def glyphAddress (v : Byte) : Word16 := 5 * zext16 v

/-- `if c: PC <- PC + 2`, on a PC that is already advanced (41_control_flow.md R120). -/
def State.skipIf (s : State) (c : Bool) : State := if c then s.jumpTo (s.PC + 2) else s

/-- The key code a register holds; none above 15, where `IsPressed` is not defined (45_timers_keys.md R210). -/
def keyCode? (v : Byte) : Option KeyCode := if h : v.toNat < 16 then some ⟨v.toNat, h⟩ else none

/-- `V[x] <- k` for a key code k (45_timers_keys.md R214). -/
def State.storeKey (s : State) (x : Reg) (k : KeyCode) : State := s.setReg x (BitVec.ofNat 8 k.val)

end Sys2Proof.Machine
end

