-- ==== Sys2Proof/Machine/Flags.lean ====
section
/-! DEFINITION. Every computation of VF as a flag (spec/42_alu.md R147 to R153, spec/44_display.md R196), and the two orders in which a flag and a result are written. -/

namespace Sys2Proof.Machine

/-- `c ? 1 : 0`. -/
def flagOf (c : Bool) : Byte := if c then 1 else 0

/-- 8xy4: carry out of bit 7, `sum > 255` (R147). -/
def carryFlag (a b : Byte) : Byte := flagOf (decide (255 < a.toNat + b.toNat))

/-- 8xy5 and 8xy7: the first is above the second, strictly (R148, R150). -/
def aboveFlag (a b : Byte) : Byte := flagOf (decide (b.toNat < a.toNat))

/-- 8xy6: the bit shifted out, 0 or 1 (R149). -/
def lowBitFlag (a : Byte) : Byte := a &&& 0x01

/-- 8xyE: bit 7, masked and not normalised, 0x00 or 0x80 (R151; the spec's decision D1, log 13). -/
def highBitFlag (a : Byte) : Byte := a &&& 0x80

/-- `V[F] <- v`, as a flag (10_state.md R21). -/
def State.setFlag (s : State) (v : Byte) : State := s.setReg regF v

/-- 8xy4's order: both operands are read first (`let sum`), then VF is written, then Vx (R147, R140). -/
def State.latchedFlagThenResult (s : State) (flag result : Byte → Byte → Byte) (x y : Reg) : State :=
  (s.setFlag (flag (s.reg x) (s.reg y))).setReg x (result (s.reg x) (s.reg y))

/-- The order of 8xy5, 8xy6, 8xy7 and 8xyE: VF is written first, and the result reads the registers as that write
left them, so x = F or y = F reads the new flag (R140, R148 to R151; the spec's decision D7, log 12). -/
def State.flagThenResult (s : State) (flag result : Byte → Byte → Byte) (x y : Reg) : State :=
  let s1 := s.setFlag (flag (s.reg x) (s.reg y))
  s1.setReg x (result (s1.reg x) (s1.reg y))

end Sys2Proof.Machine
end

