-- ==== Sys2Proof/Machine/Alu.lean ====
section
/-! DEFINITION. Register loads, arithmetic, logic, shifts and random (spec/42_alu.md). Each meaning is a whole slot: the PC advance of 40_dispatch_cycle.md R104, then the body. -/

namespace Sys2Proof.Machine

/-- 6xkk LD Vx, kk (R141). -/
def execLdImm (x : Reg) (kk : Byte) (s : State) : Result :=
  .next (s.advance.setReg x kk)

/-- 7xkk ADD Vx, kk: no flag (R142). -/
def execAddImm (x : Reg) (kk : Byte) (s : State) : Result :=
  .next (s.advance.setReg x (s.reg x + kk))

/-- 8xy0 LD Vx, Vy (R143). -/
def execLdReg (x y : Reg) (s : State) : Result :=
  .next (s.advance.setReg x (s.reg y))

/-- 8xy1 OR Vx, Vy: VF is not written (R144). -/
def execOrReg (x y : Reg) (s : State) : Result :=
  .next (s.advance.setReg x (s.reg x ||| s.reg y))

/-- 8xy2 AND Vx, Vy: VF is not written (R145). -/
def execAndReg (x y : Reg) (s : State) : Result :=
  .next (s.advance.setReg x (s.reg x &&& s.reg y))

/-- 8xy3 XOR Vx, Vy: VF is not written (R146). -/
def execXorReg (x y : Reg) (s : State) : Result :=
  .next (s.advance.setReg x (s.reg x ^^^ s.reg y))

/-- 8xy4 ADD Vx, Vy (R147). -/
def execAddReg (x y : Reg) (s : State) : Result :=
  .next (s.advance.latchedFlagThenResult carryFlag (fun a b => a + b) x y)

/-- 8xy5 SUB Vx, Vy (R148). -/
def execSub (x y : Reg) (s : State) : Result :=
  .next (s.advance.flagThenResult aboveFlag (fun a b => a - b) x y)

/-- 8xy6 SHR Vx: Vy is not read (R149). -/
def execShr (x _y : Reg) (s : State) : Result :=
  .next (s.advance.flagThenResult (fun a _ => lowBitFlag a) (fun a _ => a >>> 1) x x)

/-- 8xy7 SUBN Vx, Vy (R150). -/
def execSubn (x y : Reg) (s : State) : Result :=
  .next (s.advance.flagThenResult (fun a b => aboveFlag b a) (fun a b => b - a) x y)

/-- 8xyE SHL Vx: Vy is not read (R151). -/
def execShl (x _y : Reg) (s : State) : Result :=
  .next (s.advance.flagThenResult (fun a _ => highBitFlag a) (fun a _ => a <<< 1) x x)

/-- Cxkk RND Vx, kk: one draw, whatever byte it is (R152; log 4). -/
def execRnd (x : Reg) (kk : Byte) (s : State) : Result :=
  .next (s.advance.takeDraw.setReg x (s.nextDraw &&& kk))

end Sys2Proof.Machine
end

