-- ==== Sys2Proof/Machine/Control.lean ====
section
/-! DEFINITION. Control transfer: return, jumps, call, skips (spec/41_control_flow.md). Each meaning is a whole slot: it runs on the state before the fetch, makes the PC advance of 40_dispatch_cycle.md R104, and then its body. -/

namespace Sys2Proof.Machine

/-- 00EE RET (R121). -/
def execRet (s : State) : Result :=
  if s.SP = 0 then .next (s.raiseFatal .stackUnderflow (encode .ret))
  else
    match s.advance.popPC with
    | some t => .next t
    | none => .fault .stackPointerOutOfRange

/-- 1nnn JP nnn (R122). -/
def execJp (nnn : Addr12) (s : State) : Result :=
  .next (s.advance.jumpTo (zext16 nnn))

/-- 2nnn CALL nnn (R123): it pushes the advanced PC. -/
def execCall (nnn : Addr12) (s : State) : Result :=
  if s.SP = 16 then .next (s.raiseFatal .stackOverflow (encode (.call nnn)))
  else
    match s.advance.push s.advance.PC with
    | some t => .next (t.jumpTo (zext16 nnn))
    | none => .fault .stackPointerOutOfRange

/-- 3xkk SE Vx, kk (R124). -/
def execSeImm (x : Reg) (kk : Byte) (s : State) : Result :=
  .next (s.advance.skipIf (s.reg x == kk))

/-- 4xkk SNE Vx, kk (R125). -/
def execSneImm (x : Reg) (kk : Byte) (s : State) : Result :=
  .next (s.advance.skipIf (s.reg x != kk))

/-- 5xy0 SE Vx, Vy (R126). -/
def execSeReg (x y : Reg) (s : State) : Result :=
  .next (s.advance.skipIf (s.reg x == s.reg y))

/-- 9xy0 SNE Vx, Vy (R127). -/
def execSneReg (x y : Reg) (s : State) : Result :=
  .next (s.advance.skipIf (s.reg x != s.reg y))

/-- Bnnn JP V0, nnn (R128): V0 is always the register added. -/
def execJpV0 (nnn : Addr12) (s : State) : Result :=
  .next (s.advance.jumpTo (zext16 nnn + zext16 (s.reg 0)))

end Sys2Proof.Machine
end

