-- ==== Sys2Proof/Machine/Display.lean ====
section
/-! DEFINITION. The pixel buffer, clear and sprite draw (spec/44_display.md). Each meaning is a whole slot: the PC advance of 40_dispatch_cycle.md R104, then the body. -/

namespace Sys2Proof.Machine

/-- `fb[row][col]` (R190). -/
def pixelAt (fb : FrameBuffer) (p : Pixel) : Bool := fb[p.1.val][p.2.val]

/-- `TogglePixel`: the new buffer, and whether the pixel went from 1 to 0 (R192). -/
def togglePixel (fb : FrameBuffer) (p : Pixel) : FrameBuffer × Bool :=
  (fb.set p.1.val (fb[p.1.val].set p.2.val (!pixelAt fb p)), pixelAt fb p)

/-- The row of a sprite pixel, from the exact sum of the start row and the offset: wrapped, or none where it is dropped
(R193; the spec's decision D9, log 14). -/
def mapRow (wrapY : Bool) (row : Nat) : Option (Fin 32) :=
  if wrapY then some (Fin.ofNat 32 row) else if h : row < 32 then some ⟨row, h⟩ else none

/-- The column of a sprite pixel: always modulo 64 (R193). -/
def mapCol (col : Nat) : Fin 64 := Fin.ofNat 64 col

/-- Where the set bits of one sprite row fall, most significant bit first; nothing where the row is dropped (R193,
R194). -/
def rowTargets (wrapY : Bool) (row col0 : Nat) (b : Byte) : List Pixel :=
  match mapRow wrapY row with
  | none => []
  | some r =>
    [0, 1, 2, 3, 4, 5, 6, 7].filterMap fun c => if b.getLsbD (7 - c) then some (r, mapCol (col0 + c)) else none

/-- Where the set bits of a sprite fall, top row first: the pixels that `DrawSprite` toggles, in its order (R194). -/
def spriteTargets (wrapY : Bool) (row0 col0 : Nat) : List Byte → List Pixel
  | [] => []
  | b :: rest => rowTargets wrapY row0 col0 b ++ spriteTargets wrapY (row0 + 1) col0 rest

/-- Toggles pixels one after another; the flag is the OR of all the toggles' collisions (R194). -/
def toggleAll : List Pixel → FrameBuffer × Bool → FrameBuffer × Bool
  | [], drawn => drawn
  | p :: rest, drawn => toggleAll rest ((togglePixel drawn.1 p).1, drawn.2 || (togglePixel drawn.1 p).2)

/-- `DrawSprite(row0, col0, height)` on the bytes read at I (R194). -/
def drawSprite (wrapY : Bool) (row0 col0 : Nat) (bytes : List Byte) (fb : FrameBuffer) : FrameBuffer × Bool :=
  toggleAll (spriteTargets wrapY row0 col0 bytes) (fb, false)

/-- 00E0 CLS (R195). -/
def execCls (s : State) : Result :=
  .next (s.advance.setPixels FrameBuffer.clear)

/-- Dxyn DRW Vx, Vy, n: Vx is the column and Vy the row, both read before VF is written (R196; the spec's decision D8,
log 14). -/
def execDrw (x y : Reg) (n : Height) (s : State) : Result :=
  let drawn := drawSprite s.cfg.wrapY (s.reg y).toNat (s.reg x).toNat (s.readBytes (s.indexed 0) n.val) s.fb
  .next ((s.advance.setPixels drawn.1).setFlag (flagOf drawn.2))

end Sys2Proof.Machine
end

