-- ==== Sys2Proof/Machine/IndexMem.lean ====
section
/-! DEFINITION. The index register and memory transfers (spec/43_index_memory.md). Each meaning is a whole slot: the PC advance of 40_dispatch_cycle.md R104, then the body. -/

namespace Sys2Proof.Machine

/-- Annn LD I, nnn (R171). -/
def execLdI (nnn : Addr12) (s : State) : Result :=
  .next (s.advance.setIndex (zext16 nnn))

/-- Fx1E ADD I, Vx: the sum is mod 2^16 and no flag is written (R172; the spec's decision D2, log 13). -/
def execAddI (x : Reg) (s : State) : Result :=
  .next (s.advance.setIndex (s.I + zext16 (s.reg x)))

/-- Fx29 LD F, Vx: Vx is not masked (R173). -/
def execLdF (x : Reg) (s : State) : Result :=
  .next (s.advance.setIndex (glyphAddress (s.reg x)))

/-- Fx33 LD B, Vx (R174). -/
def execLdB (x : Reg) (s : State) : Result :=
  .next (s.advance.storeBytes (s.indexed 0) (decimalDigits (s.reg x)))

/-- Fx55 LD [I], Vx: V0..Vx inclusive; I is unchanged (R175). -/
def execStoreRegs (x : Reg) (s : State) : Result :=
  .next (s.advance.storeBytes (s.indexed 0) (s.regsUpTo x))

/-- Fx65 LD Vx, [I]: V0..Vx inclusive; I is unchanged (R176). -/
def execLoadRegs (x : Reg) (s : State) : Result :=
  .next (s.advance.loadBlock (s.readBytes (s.indexed 0) (x.val + 1)))

end Sys2Proof.Machine
end

