-- ==== Sys2Proof/Machine/KeysTimers.lean ====
section
/-! DEFINITION. Keys and timers (spec/45_timers_keys.md). Each meaning is a whole slot: the PC advance of 40_dispatch_cycle.md R104, then the body. -/

namespace Sys2Proof.Machine

/-- Ex9E SKP Vx; Vx above 15 raises KeyCodeOutOfRange (R211, R210; the spec's decision D10, log 15). -/
def execSkp (x : Reg) (s : State) : Result :=
  match keyCode? (s.reg x) with
  | none => .next (s.raiseFatal .keyCodeOutOfRange (encode (.skp x)))
  | some k => .next (s.advance.skipIf (isPressed s.keys k))

/-- ExA1 SKNP Vx; Vx above 15 raises KeyCodeOutOfRange (R212, R210; log 15). -/
def execSknp (x : Reg) (s : State) : Result :=
  match keyCode? (s.reg x) with
  | none => .next (s.raiseFatal .keyCodeOutOfRange (encode (.sknp x)))
  | some k => .next (s.advance.skipIf (!isPressed s.keys k))

/-- Fx07 LD Vx, DT (R213). -/
def execLdVxDt (x : Reg) (s : State) : Result :=
  .next (s.advance.setReg x s.DT)

/-- Fx0A LD Vx, K: with a key down it completes in its slot; with none it blocks (R214; log 16). -/
def execLdVxK (x : Reg) (s : State) : Result :=
  match selectKey s.cfg.keyPicks s.keys with
  | some k => .next (s.advance.storeKey x k)
  | none => .next (s.advance.block x)

/-- Fx15 LD DT, Vx (R215). -/
def execLdDtVx (x : Reg) (s : State) : Result :=
  .next (s.advance.setDelay (s.reg x))

/-- Fx18 LD ST, Vx (R216). -/
def execLdStVx (x : Reg) (s : State) : Result :=
  .next (s.advance.setSound (s.reg x))

end Sys2Proof.Machine
end

