-- ==== Sys2Proof/Machine/Scheduler.lean ====
section
/-! DEFINITION. The scheduler's phases around a slot: tick start, cancellation, the poll of a blocked dispatcher, the end of a slot, and the timer, tone and frame phases (spec/60_exceptions.md R237, R250 to R256; spec/40_dispatch_cycle.md R107). -/

namespace Sys2Proof.Machine

/-- The run state is Halted (R108). -/
def RunState.isHalted : RunState → Bool
  | .halted _ => true
  | .runnable => false
  | .blocked _ => false

/-- Cancellation at a tick start (60_exceptions.md R237; the spec's decisions D14, D16, log 17). A blocked Fx0A is
abandoned: PC goes back to it, and the record holds its word. -/
def State.cancel (s : State) : State :=
  match s.run with
  | .halted _ => s
  | .runnable => s.raiseFatal .cancelled 0
  | .blocked x => (s.jumpTo (s.PC - 2)).raiseFatal .cancelled (encode (.ldVxK x))

/-- The instruction phase begins, against the key set sampled now (R250, R252, R261). -/
def State.beginSlots (s : State) (keys : KeySet) : State :=
  { s with keys := keys, phase := .slots s.cfg.speed }

/-- A tick start: the host's inputs are sampled once; cancellation wins over all else in the tick (R239, R250, R261). -/
def State.startTick (s : State) : State :=
  if s.nextInput.cancel then s.takeInput.cancel else s.takeInput.beginSlots s.nextInput.keys

/-- A slot of a blocked dispatcher: with a key down, the Fx0A completes (40_dispatch_cycle.md R107). -/
def State.poll (s : State) (x : Reg) : State :=
  match selectKey s.cfg.keyPicks s.keys with
  | some k => (s.storeKey x k).setRun .runnable
  | none => s

/-- What a slot leaves of the tick: nothing once Halted (60_exceptions.md R233), no further slot while Blocked, else
the slots that were left (R252). -/
def phaseAfter (left : Nat) : RunState → Phase
  | .halted _ => .between
  | .blocked _ => .slots 0
  | .runnable => .slots left

/-- The end of a slot that leaves `left` slots of its tick (R252). -/
def State.afterSlot (left : Nat) (s : State) : State := { s with phase := phaseAfter left s.run }

/-- A timer's decrement, with a floor at 0 (R253). -/
def countDown (t : Byte) : Byte := if t = 0 then 0 else t - 1

/-- The timer phase, the tone phase and the frame phase; the tick is then over (R250, R253, R254, R255). -/
def State.endTick (s : State) : State :=
  { s with
    DT := countDown s.DT
    ST := countDown s.ST
    tone := decide (0 < (countDown s.ST).toNat)
    frame := some s.fb
    phase := .between }

end Sys2Proof.Machine
end

