-- ==== Sys2Proof/Machine/Slot.lean ====
section
/-! DEFINITION. One slot of the dispatcher: fetch, decode, legality and execution, or one poll (spec/40_dispatch_cycle.md R101 to R108); and which piece of a tick comes next (spec/60_exceptions.md R250). -/

namespace Sys2Proof.Machine

/-- The fetch: two consecutive bytes at PC, big-endian; `PC + 1` is mod 2^16 and both addresses are reduced mod 4096
(R101, 20_memory.md R52, R54). -/
def State.fetch (s : State) : Word16 := wordOfBytes (s.readMem s.PC) (s.readMem (s.PC + 1))

/-- The slot of a runnable dispatcher that fetched `op` (R102, R103, R105). -/
def State.dispatch (s : State) (op : Word16) : Result :=
  match decode op with
  | .ok i => exec i s
  | .error _ => .next (s.raiseFatal .unknownInstruction op)

/-- One slot (R100). -/
def State.slot (s : State) : Result :=
  match s.run with
  | .runnable => s.dispatch s.fetch
  | .blocked x => .next (s.poll x)
  | .halted _ => .next s

/-- The scheduler's next piece of work, in the order of `Tick` (60_exceptions.md R250; log 7): a tick start, one slot,
or a tick's closing phases. A Halted core does nothing (R256). -/
def State.schedule (s : State) : Result :=
  match s.run.isHalted, s.phase with
  | true, _ => .next s
  | false, .between => .next s.startTick
  | false, .slots 0 => .next s.endTick
  | false, .slots (left + 1) => onNext (State.afterSlot left) s.slot

/-- A runnable dispatcher in an instruction phase, with one slot to use (log 20). -/
def State.readyToFetch (s : State) : State := { s with run := .runnable, phase := .slots 1 }

end Sys2Proof.Machine
end

