-- ==== Sys2Proof/Machine/Step.lean ====
section
/-! DEFINITION. One step of the machine (spec/60_exceptions.md R250; log 7), and the host's placing of an instruction. -/

namespace Sys2Proof.Machine

/-- One step: a tick start, one slot, or a tick's closing phases (R250). -/
def step (s : State) : Host.Outcome State Fault Refusal := s.schedule

/-- `s` with the instruction of the low `nbits` bits of `w` stored at PC, big-endian, and a runnable dispatcher with a
slot to run it (log 20). -/
def State.withFetchWord (s : State) (nbits w : Nat) : State :=
  let op : Word16 := BitVec.ofNat 16 (w % 2 ^ nbits)
  (s.storeBytes s.PC [op.extractLsb' 8 8, op.extractLsb' 0 8]).readyToFetch

end Sys2Proof.Machine
end

