-- ==== Sys2Proof/Machine/Boot.lean ====
section
/-! DEFINITION. Reset with a font and a configuration of the host's, program load, and the boot order (spec/70_reset_and_hazards.md R280 to R283, spec/60_exceptions.md R238). -/

namespace Sys2Proof.Machine

/-- Memory after `Reset()` with any font table: zeros, the font's 80 bytes in 0x000..0x04F (R280, 00_scope.md R9). -/
def Memory.ofFont (font : Vector Byte 80) : Memory := Memory.writeBytes [] 0 font.toList

/-- `Reset()` in a session with this font and configuration; it reads no earlier state (R280, R283). Every session begins
with the same empty host script, which is the model's choice (log 30). -/
def State.resetWith (font : Vector Byte 80) (cfg : SessionConfig) : State :=
  { State.reset with mem := Memory.ofFont font, cfg := cfg }

/-- The halt record of a load-time condition: the core never runs (60_exceptions.md R231, R238). -/
def loadFailure (code : HaltCode) : HaltRecord := { code := code, opcode := 0, pc := Config.progBase, sp := 0 }

/-- `LoadProgram(bytes)`: verbatim from 0x200, refused whole above 3584 bytes (R281; the spec's decision D3, log 26). -/
def State.loadProgram (bytes : List Byte) (s : State) : Except HaltRecord State :=
  if Config.progMax < bytes.length then .error (loadFailure .programTooLarge)
  else .ok (s.storeBytes Config.progBase bytes)

/-- The boot order up to the first tick: reset, then load; an unreadable file gives no image and LoadIOError (R282,
60_exceptions.md R238, R262). -/
def boot (font : Vector Byte 80) (cfg : SessionConfig) (image : Option (List Byte)) : Except HaltRecord State :=
  match image with
  | none => .error (loadFailure .loadIOError)
  | some bytes => (State.resetWith font cfg).loadProgram bytes

end Sys2Proof.Machine
end

