-- ==== Sys2Proof/Safety.lean ====
section
/-! DEFINITION. What counts as a good state of the core and as a safe step, in the terms the claims use, and a whole tick as spec/60_exceptions.md R250 writes it. -/

namespace Sys2Proof.Machine

/-- What holds of every state the core can be in. -/
structure State.Inv (s : State) : Prop where
  /-- "SP stays in [0,16]" (10_state.md R28). -/
  spLegal : s.SP.toNat ≤ Config.stackDepth
  /-- Memory keeps its canonical form. -/
  memCanonical : s.mem.wf
  /-- `speed` is a positive integer (00_scope.md R9). -/
  speedPositive : 1 ≤ s.cfg.speed
  /-- A tick gives at most `speed` slots (60_exceptions.md R252). -/
  slotsBounded : ∀ left, s.phase = .slots left → left ≤ s.cfg.speed
  /-- A halt record tells where the core stopped, and no tick is running (R233, R237). -/
  haltPrecise : ∀ h, s.run = .halted h → h.pc = s.PC ∧ h.sp = s.SP ∧ s.phase = .between
  /-- Between ticks the tone is on exactly when ST is above 0 (R254). -/
  toneLatched : s.phase = .between → s.run.isHalted = false → s.tone = decide (0 < s.ST.toNat)

/-- The step answers a next state: no fault and no refusal. -/
def State.Safe (s : State) : Prop := ∃ t, step s = .next t

/-- Up to `k` slots in sequence, ending early when one halts or leaves the dispatcher blocked (R252). -/
def slotsOf : Nat → State → Result
  | 0, s => .next s
  | k + 1, s =>
    match s.slot with
    | .next t =>
      match t.run with
      | .runnable => slotsOf k t
      | .blocked _ => .next t
      | .halted _ => .next t
    | .fault r => .fault r
    | .refused r => .refused r

/-- The whole of `Tick(K, cancel)`, written as R250 writes it, on the inputs that the host supplies next. The machine's
`step` does it in pieces; this is the clear definition to hold them against. -/
def tick (s : State) : Result :=
  if s.run.isHalted then .next s
  else if s.nextInput.cancel then .next s.takeInput.cancel
  else
    match slotsOf s.cfg.speed { s.takeInput with keys := s.nextInput.keys } with
    | .next t => if t.run.isHalted then .next t else .next t.endTick
    | .fault r => .fault r
    | .refused r => .refused r

end Sys2Proof.Machine
end

