-- ==== Sys2Proof/WellFormed.lean ====
section
/-! DEFINITION. Which operands an encoding admits (spec/30_encoding.md R71, R72). The field types of Instr already carry these bounds, so every term of Instr is well formed; the checks below are on plain numbers, for operands that come from outside (an assembler's text, a test), and refuse what no word can hold. -/

namespace Sys2Proof

/-- A register index fits its 4-bit field (R72). -/
def regOk (n : Nat) : Bool := n < 16

/-- A height fits its 4-bit field (R72). -/
def heightOk (n : Nat) : Bool := n < 16

/-- An 8-bit constant fits its field (R72). -/
def byteOk (n : Nat) : Bool := n < 256

/-- An address fits its 12-bit field (R72). -/
def addrOk (n : Nat) : Bool := n < 4096

/-- Every operand of the instruction fits the field that its pattern gives it. -/
def Instr.wf : Instr → Bool
  | .cls | .ret => true
  | .jp nnn | .call nnn | .ldI nnn | .jpV0 nnn => addrOk nnn.toNat
  | .seImm x kk | .sneImm x kk | .ldImm x kk | .addImm x kk | .rnd x kk => regOk x.val && byteOk kk.toNat
  | .seReg x y | .ldReg x y | .orReg x y | .andReg x y | .xorReg x y | .addReg x y | .sub x y | .shr x y
  | .subn x y | .shl x y | .sneReg x y => regOk x.val && regOk y.val
  | .drw x y n => regOk x.val && regOk y.val && heightOk n.val
  | .skp x | .sknp x | .ldVxDt x | .ldVxK x | .ldDtVx x | .ldStVx x | .addI x | .ldF x | .ldB x
  | .storeRegs x | .loadRegs x => regOk x.val

/-- A register operand built from a plain number, refused where no field holds it. -/
def reg? (n : Nat) : Option Reg := if h : n < 16 then some ⟨n, h⟩ else none

/-- A byte operand built from a plain number, refused where no field holds it. -/
def byte? (n : Nat) : Option Byte := if byteOk n then some (BitVec.ofNat 8 n) else none

/-- An address operand built from a plain number, refused where no field holds it. -/
def addr? (n : Nat) : Option Addr12 := if addrOk n then some (BitVec.ofNat 12 n) else none

end Sys2Proof
end

