-- ==== Sys2Proof/Certificates/Slice0/Obligations.lean ====
section
/-! DEFINITION. The statements for the provers, from the numbered rules of spec/. A docstring says which clause is the spec's own decision (D<n> of 92_eei_decisions.md) or the model's choice (log <n>). -/

namespace Sys2Proof.Machine

/-! ## The terms the statements use -/

/-- The parts of the state a frame speaks of. -/
inductive Part where
  | V | I | PC | stack | SP | DT | ST | mem | fb | run | tone | phase | keys | frame | cfg | env
deriving DecidableEq, Repr

/-- From `s` to `t` nothing changes but the parts listed; memory is compared byte by byte. -/
structure KeepsAllBut (changed : List Part) (s t : State) : Prop where
  V : Part.V ∉ changed → t.V = s.V
  I : Part.I ∉ changed → t.I = s.I
  PC : Part.PC ∉ changed → t.PC = s.PC
  stack : Part.stack ∉ changed → t.stack = s.stack
  SP : Part.SP ∉ changed → t.SP = s.SP
  DT : Part.DT ∉ changed → t.DT = s.DT
  ST : Part.ST ∉ changed → t.ST = s.ST
  mem : Part.mem ∉ changed → ∀ a, t.readMem a = s.readMem a
  fb : Part.fb ∉ changed → t.fb = s.fb
  run : Part.run ∉ changed → t.run = s.run
  tone : Part.tone ∉ changed → t.tone = s.tone
  phase : Part.phase ∉ changed → t.phase = s.phase
  keys : Part.keys ∉ changed → t.keys = s.keys
  frame : Part.frame ∉ changed → t.frame = s.frame
  cfg : Part.cfg ∉ changed → t.cfg = s.cfg
  env : Part.env ∉ changed → t.env = s.env

/-- Every general register but those listed is unchanged. -/
def KeepsRegsBut (changed : List Reg) (s t : State) : Prop := ∀ r, r ∉ changed → t.reg r = s.reg r

/-- The inputs of one tick are used up, and no random draw (60_exceptions.md R261; log 6). -/
structure UsesUpOneInput (s t : State) : Prop where
  inputs : t.env.inputs = s.env.inputs.tail
  tickNo : t.env.tickNo = s.env.tickNo + 1
  draws : t.env.draws = s.env.draws
  drawNo : t.env.drawNo = s.env.drawNo

/-- The instruction's word has these fixed digits, and decodes to the instruction with every operand as it is. -/
def EncodedAs (i : Instr) (value mask : Word16) : Prop := encode i &&& mask = value ∧ decode (encode i) = .ok i

/-- `v` counted as a number is the number `n` reduced mod 256 (00_scope.md R11). -/
def IsMod256 (v : Byte) (n : Nat) : Prop := v.toNat = n % 256

/-- The slot halts the core with this record and changes nothing else (60_exceptions.md R233). -/
def HaltsOnly (o : Result) (s : State) (code : HaltCode) (op : Word16) : Prop :=
  ∃ t, o = .next t ∧ t.run = .halted ⟨code, op, s.PC, s.SP⟩ ∧ KeepsAllBut [.run] s t

/-- The address of the byte at offset `k` from I: `(I + k) mod 4096` (43_index_memory.md R170). -/
def State.dataAddress (s : State) (k : Nat) : Nat := (s.I.toNat + k) % 4096

/-- The bit of the sprite at I in row `r` and column `c`, the most significant bit being column 0 (44_display.md R194). -/
abbrev State.SpriteBit (s : State) (r c : Nat) : Prop := (s.mem.read (s.dataAddress r)).getLsbD (7 - c) = true

/-- A sprite row `r` (below `n`) and column `c` whose bit is set falls on the pixel `p` (44_display.md R193, R194). -/
def State.SpriteHits (s : State) (row0 col0 : Byte) (n : Nat) (p : Pixel) : Prop :=
  ∃ r c, r < n ∧ c < 8 ∧ s.SpriteBit r c ∧
    p.2.val = (col0.toNat + c) % 64 ∧
    (if s.cfg.wrapY then p.1.val = (row0.toNat + r) % 32 else p.1.val = row0.toNat + r)

end Sys2Proof.Machine

/-- The instruction names VF as a destination register (42_alu.md R153). -/
def Sys2Proof.Instr.namesVF : Instr → Bool
  | .ldImm x _ | .addImm x _ | .ldReg x _ | .orReg x _ | .andReg x _ | .xorReg x _ | .rnd x _ | .ldVxDt x | .ldVxK x
  | .loadRegs x => x == regF
  | .cls | .ret | .jp _ | .call _ | .seImm _ _ | .sneImm _ _ | .seReg _ _ | .addReg _ _ | .sub _ _ | .shr _ _ | .subn _ _
  | .shl _ _ | .sneReg _ _ | .ldI _ | .jpV0 _ | .drw _ _ _ | .skp _ | .sknp _ | .ldDtVx _ | .ldStVx _ | .addI _ | .ldF _
  | .ldB _ | .storeRegs _ => false

/-- The instruction writes VF as a flag (42_alu.md R153). -/
def Sys2Proof.Instr.writesFlag : Instr → Bool
  | .addReg _ _ | .sub _ _ | .shr _ _ | .subn _ _ | .shl _ _ | .drw _ _ _ => true
  | .cls | .ret | .jp _ | .call _ | .seImm _ _ | .sneImm _ _ | .seReg _ _ | .ldImm _ _ | .addImm _ _ | .ldReg _ _
  | .orReg _ _ | .andReg _ _ | .xorReg _ _ | .sneReg _ _ | .ldI _ | .jpV0 _ | .rnd _ _ | .skp _ | .sknp _ | .ldVxDt _
  | .ldVxK _ | .ldDtVx _ | .ldStVx _ | .addI _ | .ldF _ | .ldB _ | .storeRegs _ | .loadRegs _ => false

/-- The instruction can write the register: its destination, VF as a flag, or the block V0..Vx (10_state.md R20, R21). -/
def Sys2Proof.Instr.mayWrite : Instr → Reg → Bool
  | .ldImm x _, r | .addImm x _, r | .ldReg x _, r | .orReg x _, r | .andReg x _, r | .xorReg x _, r | .rnd x _, r
  | .ldVxDt x, r | .ldVxK x, r => r == x
  | .addReg x _, r | .sub x _, r | .shr x _, r | .subn x _, r | .shl x _, r => r == x || r == regF
  | .drw _ _ _, r => r == regF
  | .loadRegs x, r => r ≤ x
  | .cls, _ | .ret, _ | .jp _, _ | .call _, _ | .seImm _ _, _ | .sneImm _ _, _ | .seReg _ _, _ | .sneReg _ _, _
  | .ldI _, _ | .jpV0 _, _ | .skp _, _ | .sknp _, _ | .ldDtVx _, _ | .ldStVx _, _ | .addI _, _ | .ldF _, _ | .ldB _, _
  | .storeRegs _, _ => false

/-- The instruction can change the run state: it can block, or raise a fatal condition (10_state.md R33,
60_exceptions.md R231). -/
def Sys2Proof.Instr.mayEndRunnable : Instr → Bool
  | .ret | .call _ | .skp _ | .sknp _ | .ldVxK _ => true
  | .cls | .jp _ | .seImm _ _ | .sneImm _ _ | .seReg _ _ | .ldImm _ _ | .addImm _ _ | .ldReg _ _ | .orReg _ _
  | .andReg _ _ | .xorReg _ _ | .addReg _ _ | .sub _ _ | .shr _ _ | .subn _ _ | .shl _ _ | .sneReg _ _ | .ldI _
  | .jpV0 _ | .rnd _ _ | .drw _ _ _ | .ldVxDt _ | .ldDtVx _ | .ldStVx _ | .addI _ | .ldF _ | .ldB _ | .storeRegs _
  | .loadRegs _ => false

/-- The instruction transfers control: a jump, a call, a return or a skip (10_state.md R25). -/
def Sys2Proof.Instr.transfersControl : Instr → Bool
  | .ret | .jp _ | .call _ | .seImm _ _ | .sneImm _ _ | .seReg _ _ | .sneReg _ _ | .jpV0 _ | .skp _ | .sknp _ => true
  | .cls | .ldImm _ _ | .addImm _ _ | .ldReg _ _ | .orReg _ _ | .andReg _ _ | .xorReg _ _ | .addReg _ _ | .sub _ _
  | .shr _ _ | .subn _ _ | .shl _ _ | .ldI _ | .rnd _ _ | .drw _ _ _ | .ldVxDt _ | .ldVxK _ | .ldDtVx _ | .ldStVx _
  | .addI _ | .ldF _ | .ldB _ | .storeRegs _ | .loadRegs _ => false

open Sys2Proof Sys2Proof.Machine

/-! ## Reset, load, boot -/

/-- 10_state.md R39. I, the stack, the run state and the tone are the spec's decision D19 (log 9); the phase is the
model's (log 7). Memory: `ResetMemoryHoldsTheFont`. -/
def Obligations.ResetGivesTheSpecifiedRegisters : Prop :=
  (∀ r, State.reset.reg r = 0) ∧ State.reset.I = 0 ∧ State.reset.PC = 0x200 ∧ State.reset.SP = 0 ∧
    (∀ j : Fin 16, State.reset.stack[j.val] = 0) ∧ State.reset.DT = 0 ∧ State.reset.ST = 0 ∧
    (∀ (r : Fin 32) (c : Fin 64), State.reset.fb[r.val][c.val] = false) ∧ State.reset.run = .runnable ∧
    State.reset.tone = false ∧ State.reset.phase = .between ∧ State.reset.cfg.wrapY = false ∧ 1 ≤ State.reset.cfg.speed

/-- R280 and R39 for every font table, and that `State.reset` is the reset with the spec's default table (R36, from
general knowledge, log 1). A reset reads no earlier state, so it is a function of the font and the configuration. -/
def Obligations.ResetMemoryHoldsTheFont : Prop :=
  (∀ (font : Vector Byte 80) (cfg : SessionConfig) (a : Word16),
    (∀ h : a.toNat % 4096 < 80, (State.resetWith font cfg).readMem a = font[a.toNat % 4096]) ∧
      (80 ≤ a.toNat % 4096 → (State.resetWith font cfg).readMem a = 0)) ∧
    ∀ a, State.reset.readMem a = (State.resetWith defaultFont State.reset.cfg).readMem a

/-- R281: verbatim from 0x200 up to 3584 bytes, and nothing else; above that the error of R231, the spec's decision D3
(log 26). -/
def Obligations.LoadProgramCopiesVerbatimOrRefuses : Prop :=
  ∀ (bytes : List Byte) (s : State),
    (bytes.length ≤ 3584 →
      ∃ t, s.loadProgram bytes = .ok t ∧ KeepsAllBut [.mem] s t ∧
        (∀ k (h : k < bytes.length), t.mem.read (0x200 + k) = bytes[k]) ∧
        ∀ a, a < 4096 → (a < 0x200 ∨ 0x200 + bytes.length ≤ a) → t.mem.read a = s.mem.read a) ∧
    (3584 < bytes.length → s.loadProgram bytes = .error ⟨.programTooLarge, 0, 0x200, 0⟩)

/-- R282, R280, R283: after a boot the first word fetched is the program's first two bytes. Whatever the font, the
configuration and the image, a boot that succeeds leaves all but memory as in `State.reset` (whose host script is the
model's, log 30) and takes the configuration given; without an image the core does not run (R238, the spec's decision
D3). -/
def Obligations.BootFetchesTheFirstWordOfTheProgram : Prop :=
  ∀ (font : Vector Byte 80) (cfg : SessionConfig) (b0 b1 : Byte) (rest : List Byte),
    (rest.length ≤ 3582 →
      ∃ t, boot font cfg (some (b0 :: b1 :: rest)) = .ok t ∧ t.fetch = b0 ++ b1 ∧
        KeepsAllBut [.mem] (State.resetWith font cfg) t) ∧
    (3582 < rest.length → ∃ h, boot font cfg (some (b0 :: b1 :: rest)) = .error h ∧ h.code.number = 16) ∧
    (∃ h, boot font cfg none = .error h ∧ h.code.number = 17) ∧
    ∀ (image : Option (List Byte)) (t : State), boot font cfg image = .ok t →
      t.cfg = cfg ∧ KeepsAllBut [.mem, .cfg] State.reset t

/-! ## Encoding -/

/-- Every instruction, with every operand at every value, is what its own word decodes to (30_encoding.md R71 to R74). -/
def Obligations.DecodeOfEncodeIsTheInstruction : Prop :=
  ∀ i : Instr, i.wf = true → decode (encode i) = .ok i

/-- No bit of a legal word is dropped: the word of the decoded instruction is the word (R71, R77). The halt record's
opcode rests on this (log 24). -/
def Obligations.EncodeOfDecodeIsTheWord : Prop :=
  ∀ (w : Word16) (i : Instr), decode w = .ok i → encode i = w

/-- R74 to R76: a word decodes exactly when a row of the table selects it, to an instruction of that row, and no word is
selected by two rows. The exact match is the spec's decision D24 (log 21). -/
def Obligations.DecodeAcceptsExactlyTheTable : Prop :=
  (∀ w : Word16, (∃ i, decode w = .ok i) ↔ ∃ r ∈ opcodeTable, r.selects w = true) ∧
    (∀ (w : Word16) (i : Instr), decode w = .ok i → i.row ∈ opcodeTable ∧ i.row.selects w = true) ∧
    (∀ (w : Word16) (r q : Row), r ∈ opcodeTable → q ∈ opcodeTable → r.selects w = true → q.selects w = true → r = q) ∧
    ∀ (w : Word16) (e : Reject), decode w = .error e → e = .unknownInstruction w

/-- One word of each family, as 95_test_vectors.md writes it (section 2, and for 0xD125 program P3 of section 3), decodes to
the instruction it stands for there. That 0x01E0 decodes to none is the spec's decision D24 (log 21). -/
def Obligations.WrittenOutWordsDecode : Prop :=
  decode 0x00E0 = .ok .cls ∧ decode 0x2300 = .ok (.call 0x300) ∧ decode 0x3310 = .ok (.seImm 3 0x10) ∧
    decode 0x9120 = .ok (.sneReg 1 2) ∧ decode 0x80F5 = .ok (.sub 0 0xF) ∧ decode 0xC30F = .ok (.rnd 3 0x0F) ∧
    decode 0xF21E = .ok (.addI 2) ∧ decode 0xD125 = .ok (.drw 1 2 5) ∧ decode 0xE0A1 = .ok (.sknp 0) ∧
    decode 0xF30A = .ok (.ldVxK 3) ∧ decode 0x01E0 = .error (.unknownInstruction 0x01E0)

/-! ## Slots, steps, ticks -/

/-- 40_dispatch_cycle.md R101 to R105 and 60_exceptions.md R252: in a running tick, when the two bytes at PC and PC + 1
(mod 4096, the spec's decision D4, log 10; big-endian, R54) decode to `i`, the step is `exec i`, after which the tick
has one slot less, none where the dispatcher is blocked, and is over where it is halted (log 7). -/
def Obligations.StepRunsTheDecodedInstruction : Prop :=
  ∀ (s : State) (left : Nat) (hi lo : Byte) (i : Instr),
    s.run = .runnable → s.phase = .slots (left + 1) → s.mem.read (s.PC.toNat % 4096) = hi →
    s.mem.read ((s.PC.toNat + 1) % 4096) = lo → decode (hi ++ lo) = .ok i →
    step s = onNext (fun t => { t with phase := phaseAfter left t.run }) (exec i s)

/-- A word placed by the host's `withFetchWord` is what the very next step runs (log 20). -/
def Obligations.PlacedWordIsRunNext : Prop :=
  ∀ (s : State) (w : Word16) (i : Instr), decode w = .ok i →
    step (s.withFetchWord 16 w.toNat) = onNext (State.afterSlot 0) (exec i (s.withFetchWord 16 w.toNat))

/-- R103, R232: no row matches, so the slot raises UnknownInstruction and nothing else changes. -/
def Obligations.UnknownWordHaltsAndWritesNothing : Prop :=
  ∀ s : State, s.run = .runnable → (∀ r ∈ opcodeTable, r.selects s.fetch = false) →
    s.slot = .next { s with run := .halted ⟨.unknownInstruction, s.fetch, s.PC, s.SP⟩ }

/-- R108: a Halted core does nothing, however many steps it is given. -/
def Obligations.HaltedCoreStaysAsItIs : Prop :=
  ∀ (s : State) (h : HaltRecord) (n : Nat), s.run = .halted h → Host.Core.run Sys2Proof.core n s = .next s

/-- R233, R240, R242 over every instruction: a fatal condition changes the run state and nothing else, and its record
holds the instruction's own word and address and SP, as they were (the spec's decision D17, log 18). -/
def Obligations.FatalConditionsArePrecise : Prop :=
  ∀ (i : Instr) (s t : State) (h : HaltRecord), s.run = .runnable → exec i s = .next t → t.run = .halted h →
    t = { s with run := .halted h } ∧ h.opcode = encode i ∧ h.pc = s.PC ∧ h.sp = s.SP

/-- R272, R231: a run ends only by a cancellation at a tick start, or by one of the four run-time fatal conditions, each
in the case its rule gives; the tick is then over (the spec's decisions D10, D14 to D18). -/
def Obligations.StepHaltsOnlyForANamedReason : Prop :=
  ∀ (s t : State) (h : HaltRecord), step s = .next t → s.run.isHalted = false → t.run = .halted h →
    t.phase = .between ∧
      ((s.phase = .between ∧ s.nextInput.cancel = true ∧ h.code.number = 5) ∨
        (s.run = .runnable ∧ (∃ left, s.phase = .slots (left + 1)) ∧ h.opcode = s.fetch ∧ h.pc = s.PC ∧ h.sp = s.SP ∧
          ((h.code.number = 1 ∧ ∀ r ∈ opcodeTable, r.selects s.fetch = false) ∨
            (h.code.number = 2 ∧ s.SP = 16 ∧ ∃ nnn, decode s.fetch = .ok (.call nnn)) ∨
            (h.code.number = 3 ∧ s.SP = 0 ∧ decode s.fetch = .ok .ret) ∨
            (h.code.number = 4 ∧
              ∃ x, 15 < (s.reg x).toNat ∧ (decode s.fetch = .ok (.skp x) ∨ decode s.fetch = .ok (.sknp x))))))

/-- Every step keeps the invariant: SP in 0..16, canonical memory, a positive speed, at most `speed` slots left, a
precise halt record, and a tone that follows ST between ticks (10_state.md R28, 60_exceptions.md R233, R252, R254). -/
def Obligations.EveryStepKeepsTheInvariant : Prop :=
  ∀ s t : State, s.Inv → step s = .next t → t.Inv

/-- The invariant holds after reset and after every successful boot with a positive speed (log 2). -/
def Obligations.InvariantHoldsAfterBoot : Prop :=
  State.reset.Inv ∧
    ∀ (font : Vector Byte 80) (cfg : SessionConfig) (image : Option (List Byte)) (t : State),
      1 ≤ cfg.speed → boot font cfg image = .ok t → t.Inv

/-- From every good state the step answers a next state: no address, operand or word makes the machine stop outside the
spec's own Halted state (20_memory.md R52, R55; 60_exceptions.md R233; the model's one fault, log 19, is never met). -/
def Obligations.GoodStatesAlwaysStep : Prop :=
  ∀ s : State, s.Inv → s.Safe

/-- R250: between two ticks, the machine's steps make up the whole `Tick` of the spec. -/
def Obligations.StepsMakeUpTheSpecsTick : Prop :=
  ∀ s : State, s.phase = .between → ∃ n, n ≤ s.cfg.speed + 2 ∧ Host.Core.run Sys2Proof.core n s = tick s

/-- R253 to R255: the closing phases, which run whether the dispatcher is runnable or blocked (D13, log 16). The frame
field is the model's (log 8). -/
def Obligations.ClosingPhasesCountDownAndHandOver : Prop :=
  ∀ s : State, s.run.isHalted = false → s.phase = .slots 0 →
    ∃ t, step s = .next t ∧ t.DT.toNat = s.DT.toNat - 1 ∧ t.ST.toNat = s.ST.toNat - 1 ∧
      (t.tone = true ↔ 0 < t.ST.toNat) ∧ t.frame = some s.fb ∧ t.phase = .between ∧
      KeepsAllBut [.DT, .ST, .tone, .frame, .phase] s t

/-- R250, R252, R261: a tick samples the key set once and gives `speed` slots, whichever inputs the host supplies; the
inputs' place in State is the model's (log 6). -/
def Obligations.TickStartSamplesTheKeys : Prop :=
  ∀ s : State, s.run.isHalted = false → s.phase = .between → s.nextInput.cancel = false →
    ∃ t, step s = .next t ∧ t.keys = s.nextInput.keys ∧ t.phase = .slots s.cfg.speed ∧
      t.env.inputs = s.env.inputs.tail ∧ t.env.tickNo = s.env.tickNo + 1 ∧ t.env.draws = s.env.draws ∧
      t.env.drawNo = s.env.drawNo ∧ KeepsAllBut [.keys, .phase, .env] s t ∧
      ∀ inp rest, s.env.inputs = inp :: rest → s.nextInput = inp

/-- R237, R239: cancellation at a tick start; a blocked Fx0A is abandoned and PC goes back to it (the spec's decisions D14,
D16, log 17). -/
def Obligations.CancellationAtATickStart : Prop :=
  ∀ s : State, s.phase = .between → s.nextInput.cancel = true →
    (s.run = .runnable →
      ∃ t, step s = .next t ∧ t.run = .halted ⟨.cancelled, 0, s.PC, s.SP⟩ ∧ UsesUpOneInput s t ∧
        KeepsAllBut [.run, .env] s t) ∧
    ∀ x : Reg, s.run = .blocked x →
      ∃ t, step s = .next t ∧ t.PC = s.PC - 2 ∧ (∀ r, t.reg r = s.reg r) ∧
        (∃ op : Word16, op.toNat = 0xF00A + 256 * x.val ∧ t.run = .halted ⟨.cancelled, op, s.PC - 2, s.SP⟩) ∧
        UsesUpOneInput s t ∧ KeepsAllBut [.run, .PC, .env] s t

/-- R106, R107, R252: the poll of a blocked dispatcher, and that it then has no further slot in the tick while it stays
blocked (the spec's decisions D11 to D13, logs 5 and 16). -/
def Obligations.PollCompletesTheKeyWait : Prop :=
  ∀ (s : State) (x : Reg) (left : Nat), s.run = .blocked x → s.phase = .slots (left + 1) →
    ((∃ k, isPressed s.keys k = true) →
      ∃ t k, step s = .next t ∧ isPressed s.keys k = true ∧ (t.reg x).toNat = k.val ∧ t.run = .runnable ∧
        t.phase = .slots left ∧ KeepsRegsBut [x] s t ∧ KeepsAllBut [.V, .run, .phase] s t) ∧
    ((∀ k, isPressed s.keys k = false) →
      ∃ t, step s = .next t ∧ t.phase = .slots 0 ∧ KeepsAllBut [.phase] s t)

/-- R266, R261, R35, R253 over every step: the configuration never changes; the key set changes only at a tick start; the
tone and the frame change only in the closing phases. -/
def Obligations.HostSideChangesOnlyAtTickBoundaries : Prop :=
  ∀ s t : State, step s = .next t →
    t.cfg = s.cfg ∧ (s.phase ≠ .between → t.keys = s.keys) ∧
      (s.phase ≠ .slots 0 → t.tone = s.tone ∧ t.frame = s.frame) ∧
      (s.phase = .between → t.DT = s.DT ∧ t.ST = s.ST)

/-! ## Control transfer -/

/-- 41_control_flow.md R121, with its underflow (R235; the record is the spec's decision D17, log 18). -/
def Obligations.ReturnPopsTheStack : Prop :=
  EncodedAs .ret 0x00EE 0xFFFF ∧ ∀ s : State,
    (1 ≤ s.SP.toNat → s.SP.toNat ≤ 16 →
      ∃ t, exec .ret s = .next t ∧ t.SP.toNat = s.SP.toNat - 1 ∧ s.stack[s.SP.toNat - 1]? = some t.PC ∧
        KeepsAllBut [.SP, .PC] s t) ∧
    (s.SP = 0 → HaltsOnly (exec .ret s) s .stackUnderflow 0x00EE)

/-- R123, with its overflow (R234; D17, log 18). The address pushed is PC + 2, mod 2^16 (D5, log 11). -/
def Obligations.CallPushesTheReturnAddress : Prop :=
  ∀ nnn : Addr12, EncodedAs (.call nnn) 0x2000 0xF000 ∧ ∀ s : State,
    (s.SP.toNat < 16 →
      ∃ t, exec (.call nnn) s = .next t ∧ t.PC.toNat = nnn.toNat ∧ t.SP.toNat = s.SP.toNat + 1 ∧
        t.stack[s.SP.toNat]? = some (s.PC + 2) ∧ (∀ j : Nat, j ≠ s.SP.toNat → t.stack[j]? = s.stack[j]?) ∧
        KeepsAllBut [.stack, .SP, .PC] s t) ∧
    (s.SP.toNat = 16 →
      ∃ op : Word16, op.toNat = 0x2000 + nnn.toNat ∧ HaltsOnly (exec (.call nnn) s) s .stackOverflow op)

/-- 95_test_vectors.md E2: a CALL and then a RET come back to the address after the CALL, with SP as it was. Which stack
entry changes is `CallPushesTheReturnAddress` and `ReturnPopsTheStack`. -/
def Obligations.CallThenReturnComesBack : Prop :=
  ∀ (nnn : Addr12) (s : State), s.SP.toNat < 16 →
    ∃ t u, exec (.call nnn) s = .next t ∧ exec .ret t = .next u ∧ u.PC = s.PC + 2 ∧ u.SP = s.SP ∧
      KeepsAllBut [.stack, .PC] s u

/-- Outside 0..16, where R28 puts no state, CALL and RET stop with the model's own fault (log 19). -/
def Obligations.StackFaultOnlyAboveSixteen : Prop :=
  ∀ (i : Instr) (s : State),
    (exec i s = .fault .stackPointerOutOfRange ↔ (i = .ret ∨ ∃ nnn, i = .call nnn) ∧ 16 < s.SP.toNat) ∧
      ∀ r, exec i s ≠ .refused r

/-- R122, R128: the jumps; the sum of Bnnn fits 16 bits and V0 is always the register added. -/
def Obligations.JumpsSetThePC : Prop :=
  ∀ (nnn : Addr12) (s : State),
    EncodedAs (.jp nnn) 0x1000 0xF000 ∧ EncodedAs (.jpV0 nnn) 0xB000 0xF000 ∧
      (∃ t, exec (.jp nnn) s = .next t ∧ t.PC.toNat = nnn.toNat ∧ KeepsAllBut [.PC] s t) ∧
      ∃ t, exec (.jpV0 nnn) s = .next t ∧ t.PC.toNat = nnn.toNat + (s.reg 0).toNat ∧ KeepsAllBut [.PC] s t

/-- R124 to R127: the four compare-and-skip instructions; PC arithmetic is mod 2^16 (D5, log 11). -/
def Obligations.ComparesSkipOneWord : Prop :=
  ∀ (x y : Reg) (kk : Byte) (s : State),
    EncodedAs (.seImm x kk) 0x3000 0xF000 ∧ EncodedAs (.sneImm x kk) 0x4000 0xF000 ∧
      EncodedAs (.seReg x y) 0x5000 0xF00F ∧ EncodedAs (.sneReg x y) 0x9000 0xF00F ∧
      (∃ t, exec (.seImm x kk) s = .next t ∧ KeepsAllBut [.PC] s t ∧
        (s.reg x = kk → t.PC = s.PC + 4) ∧ (s.reg x ≠ kk → t.PC = s.PC + 2)) ∧
      (∃ t, exec (.sneImm x kk) s = .next t ∧ KeepsAllBut [.PC] s t ∧
        (s.reg x = kk → t.PC = s.PC + 2) ∧ (s.reg x ≠ kk → t.PC = s.PC + 4)) ∧
      (∃ t, exec (.seReg x y) s = .next t ∧ KeepsAllBut [.PC] s t ∧
        (s.reg x = s.reg y → t.PC = s.PC + 4) ∧ (s.reg x ≠ s.reg y → t.PC = s.PC + 2)) ∧
      ∃ t, exec (.sneReg x y) s = .next t ∧ KeepsAllBut [.PC] s t ∧
        (s.reg x = s.reg y → t.PC = s.PC + 2) ∧ (s.reg x ≠ s.reg y → t.PC = s.PC + 4)

/-- 40_dispatch_cycle.md R104, 10_state.md R25: every instruction that transfers no control, Fx0A included, leaves PC at
the fetch address plus 2 (mod 2^16, D5, log 11). -/
def Obligations.OrdinaryInstructionsAdvanceByTwo : Prop :=
  ∀ (i : Instr) (s t : State), i.transfersControl = false → exec i s = .next t → t.PC = s.PC + 2

/-! ## Registers, arithmetic, logic, shifts, random -/

/-- 42_alu.md R141, R142. -/
def Obligations.ImmediatesLoadAndAdd : Prop :=
  ∀ (x : Reg) (kk : Byte) (s : State),
    EncodedAs (.ldImm x kk) 0x6000 0xF000 ∧ EncodedAs (.addImm x kk) 0x7000 0xF000 ∧
      (∃ t, exec (.ldImm x kk) s = .next t ∧ t.reg x = kk ∧ KeepsRegsBut [x] s t ∧ KeepsAllBut [.V, .PC] s t) ∧
      ∃ t, exec (.addImm x kk) s = .next t ∧ IsMod256 (t.reg x) ((s.reg x).toNat + kk.toNat) ∧ KeepsRegsBut [x] s t ∧
        KeepsAllBut [.V, .PC] s t

/-- R143 to R146, bit by bit; VF is not written unless it is Vx. -/
def Obligations.CopyAndLogicWriteOnlyVx : Prop :=
  ∀ (x y : Reg) (s : State),
    EncodedAs (.ldReg x y) 0x8000 0xF00F ∧ EncodedAs (.orReg x y) 0x8001 0xF00F ∧
      EncodedAs (.andReg x y) 0x8002 0xF00F ∧ EncodedAs (.xorReg x y) 0x8003 0xF00F ∧
      (∃ t, exec (.ldReg x y) s = .next t ∧ t.reg x = s.reg y ∧ KeepsRegsBut [x] s t ∧ KeepsAllBut [.V, .PC] s t) ∧
      (∃ t, exec (.orReg x y) s = .next t ∧
        (∀ b, (t.reg x).getLsbD b = ((s.reg x).getLsbD b || (s.reg y).getLsbD b)) ∧
        KeepsRegsBut [x] s t ∧ KeepsAllBut [.V, .PC] s t) ∧
      (∃ t, exec (.andReg x y) s = .next t ∧
        (∀ b, (t.reg x).getLsbD b = ((s.reg x).getLsbD b && (s.reg y).getLsbD b)) ∧
        KeepsRegsBut [x] s t ∧ KeepsAllBut [.V, .PC] s t) ∧
      ∃ t, exec (.xorReg x y) s = .next t ∧
        (∀ b, (t.reg x).getLsbD b = ((s.reg x).getLsbD b ^^ (s.reg y).getLsbD b)) ∧
        KeepsRegsBut [x] s t ∧ KeepsAllBut [.V, .PC] s t

/-- R147: the sum and its carry, for every pair of registers; with x = F the sum is written last (D7, log 12). -/
def Obligations.AddSetsTheCarry : Prop :=
  ∀ (x y : Reg) (s : State), EncodedAs (.addReg x y) 0x8004 0xF00F ∧
    ∃ t, exec (.addReg x y) s = .next t ∧ IsMod256 (t.reg x) ((s.reg x).toNat + (s.reg y).toNat) ∧
      (x ≠ 15 → t.reg 15 = if 255 < (s.reg x).toNat + (s.reg y).toNat then 1 else 0) ∧
      KeepsRegsBut [x, 15] s t ∧ KeepsAllBut [.V, .PC] s t

/-- R148, R150, every corner case with x = F or y = F included: the flag is strict, it is written first, and the
subtraction reads the registers as that write left them (D7, log 12). -/
def Obligations.SubtractionsSetAStrictFlag : Prop :=
  ∀ (x y : Reg) (s : State) (a b f g : Nat),
    a = (s.reg x).toNat → b = (s.reg y).toNat → f = (if b < a then 1 else 0) → g = (if a < b then 1 else 0) →
    EncodedAs (.sub x y) 0x8005 0xF00F ∧ EncodedAs (.subn x y) 0x8007 0xF00F ∧
      (∃ t, exec (.sub x y) s = .next t ∧ KeepsRegsBut [x, 15] s t ∧ KeepsAllBut [.V, .PC] s t ∧
        (x ≠ 15 → y ≠ 15 → (t.reg 15).toNat = f ∧ IsMod256 (t.reg x) (256 + a - b)) ∧
        (x = 15 → y ≠ 15 → IsMod256 (t.reg 15) (256 + f - b)) ∧
        (x ≠ 15 → y = 15 → (t.reg 15).toNat = f ∧ IsMod256 (t.reg x) (256 + a - f)) ∧
        (x = 15 → y = 15 → t.reg 15 = 0)) ∧
      ∃ t, exec (.subn x y) s = .next t ∧ KeepsRegsBut [x, 15] s t ∧ KeepsAllBut [.V, .PC] s t ∧
        (x ≠ 15 → y ≠ 15 → (t.reg 15).toNat = g ∧ IsMod256 (t.reg x) (256 + b - a)) ∧
        (x = 15 → y ≠ 15 → IsMod256 (t.reg 15) (256 + b - g)) ∧
        (x ≠ 15 → y = 15 → (t.reg 15).toNat = g ∧ IsMod256 (t.reg x) (256 + g - a)) ∧
        (x = 15 → y = 15 → t.reg 15 = 0)

/-- R149, R151, R77: the shifts move the bit out into VF, 8xyE's as the raw 0x00 or 0x80 (D1, log 13); with x = F the
result is 0 (D7, log 12); y changes nothing. -/
def Obligations.ShiftsPutTheBitOutInVF : Prop :=
  ∀ (x y : Reg) (s : State),
    EncodedAs (.shr x y) 0x8006 0xF00F ∧ EncodedAs (.shl x y) 0x800E 0xF00F ∧
      (∀ z, exec (.shr x z) s = exec (.shr x y) s ∧ exec (.shl x z) s = exec (.shl x y) s) ∧
      (∃ t, exec (.shr x y) s = .next t ∧ KeepsRegsBut [x, 15] s t ∧ KeepsAllBut [.V, .PC] s t ∧
        (x ≠ 15 → (t.reg x).toNat = (s.reg x).toNat / 2 ∧ (t.reg 15).toNat = (s.reg x).toNat % 2) ∧
        (x = 15 → t.reg 15 = 0)) ∧
      ∃ t, exec (.shl x y) s = .next t ∧ KeepsRegsBut [x, 15] s t ∧ KeepsAllBut [.V, .PC] s t ∧
        (x ≠ 15 → IsMod256 (t.reg x) (2 * (s.reg x).toNat) ∧
          (t.reg 15).toNat = if 128 ≤ (s.reg x).toNat then 0x80 else 0) ∧
        (x = 15 → t.reg 15 = 0)

/-- R152, R267: exactly one draw, whatever byte it is (D22, log 4); `rest` and the counter are the model's. -/
def Obligations.RandomTakesOneDrawUnderTheMask : Prop :=
  ∀ (x : Reg) (kk : Byte) (s : State), EncodedAs (.rnd x kk) 0xC000 0xF000 ∧
    ∃ t r, exec (.rnd x kk) s = .next t ∧ (∀ b, (t.reg x).getLsbD b = (r.getLsbD b && kk.getLsbD b)) ∧
      (∀ r' rest, s.env.draws = r' :: rest → r = r' ∧ t.env.draws = rest) ∧ t.env.drawNo = s.env.drawNo + 1 ∧
      t.env.inputs = s.env.inputs ∧ t.env.tickNo = s.env.tickNo ∧ KeepsRegsBut [x] s t ∧
      KeepsAllBut [.V, .PC, .env] s t

/-- R153: the values VF can hold after an instruction that writes it as a flag (x = F set aside, as there), and that no
other instruction writes VF but as its named destination. -/
def Obligations.FlagValuesAndNoOtherWriteOfVF : Prop :=
  (∀ (x y : Reg) (n : Height) (s t : State) (i : Instr),
    i ∈ [Instr.addReg x y, .sub x y, .shr x y, .subn x y] ∧ x ≠ 15 ∨ i = .drw x y n →
    exec i s = .next t → t.reg 15 = 0 ∨ t.reg 15 = 1) ∧
  (∀ (x y : Reg) (s t : State), x ≠ 15 → exec (.shl x y) s = .next t → t.reg 15 = 0 ∨ t.reg 15 = 0x80) ∧
  ∀ (i : Instr) (s t : State), i.writesFlag = false → i.namesVF = false → exec i s = .next t → t.reg 15 = s.reg 15

/-! ## Index register and memory -/

/-- 43_index_memory.md R171, R173. -/
def Obligations.IndexLoadsAddressOrGlyph : Prop :=
  ∀ (nnn : Addr12) (x : Reg) (s : State),
    EncodedAs (.ldI nnn) 0xA000 0xF000 ∧ EncodedAs (.ldF x) 0xF029 0xF0FF ∧
      (∃ t, exec (.ldI nnn) s = .next t ∧ t.I.toNat = nnn.toNat ∧ KeepsAllBut [.I, .PC] s t) ∧
      ∃ t, exec (.ldF x) s = .next t ∧ t.I.toNat = 5 * (s.reg x).toNat ∧ KeepsAllBut [.I, .PC] s t

/-- R172: the sum wraps at 16 bits (D2, log 13), and no flag is written. -/
def Obligations.AddToIndexWrapsAtSixteenBits : Prop :=
  ∀ (x : Reg) (s : State), EncodedAs (.addI x) 0xF01E 0xF0FF ∧
    ∃ t, exec (.addI x) s = .next t ∧ t.I.toNat = (s.I.toNat + (s.reg x).toNat) % 65536 ∧ KeepsAllBut [.I, .PC] s t

/-- R174: hundreds, tens and units at I, I + 1 and I + 2, each address mod 4096 (D4, log 10), and no other byte. -/
def Obligations.DecimalDigitsAreStored : Prop :=
  ∀ (x : Reg) (s : State), EncodedAs (.ldB x) 0xF033 0xF0FF ∧
    ∃ t, exec (.ldB x) s = .next t ∧
      (t.mem.read (s.dataAddress 0)).toNat = (s.reg x).toNat / 100 ∧
      (t.mem.read (s.dataAddress 1)).toNat = (s.reg x).toNat / 10 % 10 ∧
      (t.mem.read (s.dataAddress 2)).toNat = (s.reg x).toNat % 10 ∧
      (∀ a, (∀ k, k < 3 → a ≠ s.dataAddress k) → t.mem.read a = s.mem.read a) ∧ KeepsAllBut [.mem, .PC] s t

/-- R175: V0..Vx at I.., each address mod 4096 (D4, log 10), and no other byte; I is unchanged. -/
def Obligations.RegistersAreStored : Prop :=
  ∀ (x : Reg) (s : State), EncodedAs (.storeRegs x) 0xF055 0xF0FF ∧
    ∃ t, exec (.storeRegs x) s = .next t ∧ (∀ r : Reg, r ≤ x → t.mem.read (s.dataAddress r.val) = s.reg r) ∧
      (∀ a, (∀ r : Reg, r ≤ x → a ≠ s.dataAddress r.val) → t.mem.read a = s.mem.read a) ∧ KeepsAllBut [.mem, .PC] s t

/-- R176: V0..Vx from I.., each address mod 4096 (D4, log 10), the registers above Vx and I unchanged. -/
def Obligations.RegistersAreLoaded : Prop :=
  ∀ (x : Reg) (s : State), EncodedAs (.loadRegs x) 0xF065 0xF0FF ∧
    ∃ t, exec (.loadRegs x) s = .next t ∧ (∀ r : Reg, r ≤ x → t.reg r = s.mem.read (s.dataAddress r.val)) ∧
      (∀ r : Reg, x < r → t.reg r = s.reg r) ∧ KeepsAllBut [.V, .PC] s t

/-- R176's law: Fx55 and then Fx65 from the same I bring registers 0..x back, whatever the registers held between. -/
def Obligations.StoreThenLoadRoundTrips : Prop :=
  ∀ (x : Reg) (s t u w : State), exec (.storeRegs x) s = .next t → u.I = s.I → u.mem = t.mem →
    exec (.loadRegs x) u = .next w → ∀ r : Reg, r ≤ x → w.reg r = s.reg r

/-- 20_memory.md R64, 70_reset_and_hazards.md R285: a store over the next instruction's bytes is what the next fetch
reads (D25, log 25). -/
def Obligations.StoredWordIsFetchedNext : Prop :=
  ∀ (x : Reg) (s t : State), 1 ≤ x.val → (s.PC.toNat + 2) % 4096 = s.I.toNat % 4096 →
    exec (.storeRegs x) s = .next t → t.fetch = s.reg 0 ++ s.reg 1

/-! ## Pixel buffer -/

/-- 44_display.md R191, R195: CLS sets every pixel to 0 and writes no other register than PC. -/
def Obligations.ClearSetsEveryPixelToZero : Prop :=
  EncodedAs .cls 0x00E0 0xFFFF ∧
    ∀ s : State, ∃ t, exec .cls s = .next t ∧ (∀ p, pixelAt t.fb p = false) ∧ KeepsAllBut [.fb, .PC] s t

/-- R192. -/
def Obligations.TogglePixelFlipsOneAndReportsIt : Prop :=
  ∀ (fb : FrameBuffer) (p : Pixel),
    pixelAt (togglePixel fb p).1 p = !pixelAt fb p ∧ (∀ q, q ≠ p → pixelAt (togglePixel fb p).1 q = pixelAt fb q) ∧
      ((togglePixel fb p).2 = true ↔ pixelAt fb p = true ∧ pixelAt (togglePixel fb p).1 p = false)

/-- R193, R194, R196, R197: the draw flips exactly the pixels that a set sprite bit falls on, and VF tells whether one
of them was set. Vx is the column and Vy the row (D8), the start coordinates are not reduced first (D9, log 14), sprite
addresses are mod 4096 (D4, log 10). With n = 0 nothing is hit. -/
def Obligations.DrawFlipsTheMappedBits : Prop :=
  ∀ (x y : Reg) (n : Height) (s : State), EncodedAs (.drw x y n) 0xD000 0xF000 ∧
    ∃ t, exec (.drw x y n) s = .next t ∧
      (∀ p, s.SpriteHits (s.reg y) (s.reg x) n.val p → pixelAt t.fb p = !pixelAt s.fb p) ∧
      (∀ p, ¬ s.SpriteHits (s.reg y) (s.reg x) n.val p → pixelAt t.fb p = pixelAt s.fb p) ∧
      ((∃ p, s.SpriteHits (s.reg y) (s.reg x) n.val p ∧ pixelAt s.fb p = true) → t.reg 15 = 1) ∧
      ((∀ p, s.SpriteHits (s.reg y) (s.reg x) n.val p → pixelAt s.fb p = false) → t.reg 15 = 0) ∧
      KeepsRegsBut [15] s t ∧ KeepsAllBut [.V, .fb, .PC] s t

/-- R198: drawing twice at the same place restores the buffer, and the second draw collides exactly when the first set
a pixel. VF is no coordinate here, since the first draw writes it. -/
def Obligations.DrawingTwiceRestoresTheBuffer : Prop :=
  ∀ (x y : Reg) (n : Height) (s t u : State), x ≠ 15 → y ≠ 15 → exec (.drw x y n) s = .next t →
    exec (.drw x y n) t = .next u →
    u.fb = s.fb ∧ (u.reg 15 = 1 ↔ ∃ p, pixelAt s.fb p = false ∧ pixelAt t.fb p = true)

/-- R199: a draw of height 4 at row 30 (Vy is the row, D8, log 14). Sprite rows 0 and 1 flip rows 30 and 31. Without
`wrap_y` rows 2 and 3 are dropped: no other row changes, and they add no collision. With it they flip rows 0 and 1, and
no other row changes. -/
def Obligations.RowsWrapOrAreDropped : Prop :=
  ∀ (x y : Reg) (s t : State), s.reg y = 30 → exec (.drw x y 4) s = .next t →
    (∀ (r c : Nat) (p : Pixel), r < 2 → c < 8 → s.SpriteBit r c → p.1.val = 30 + r →
      p.2.val = ((s.reg x).toNat + c) % 64 → pixelAt t.fb p = !pixelAt s.fb p) ∧
    (s.cfg.wrapY = false →
      (∀ p : Pixel, p.1 ≠ 30 → p.1 ≠ 31 → pixelAt t.fb p = pixelAt s.fb p) ∧
      ((∀ (r c : Nat) (p : Pixel), r < 2 → c < 8 → s.SpriteBit r c → p.1.val = 30 + r →
        p.2.val = ((s.reg x).toNat + c) % 64 → pixelAt s.fb p = false) → t.reg 15 = 0)) ∧
    (s.cfg.wrapY = true →
      (∀ p : Pixel, p.1 ≠ 30 → p.1 ≠ 31 → p.1 ≠ 0 → p.1 ≠ 1 → pixelAt t.fb p = pixelAt s.fb p) ∧
      ∀ (r c : Nat) (p : Pixel), r < 2 → c < 8 → s.SpriteBit (2 + r) c → p.1.val = r →
        p.2.val = ((s.reg x).toNat + c) % 64 → pixelAt t.fb p = !pixelAt s.fb p)

/-! ## Keys and timers -/

/-- 45_timers_keys.md R210 to R212: the key skips; a code above 15 raises the spec's own KeyCodeOutOfRange (D10, log 15);
PC arithmetic is mod 2^16 (D5, log 11). -/
def Obligations.KeySkipsReadTheTicksKeys : Prop :=
  ∀ (x : Reg) (s : State), EncodedAs (.skp x) 0xE09E 0xF0FF ∧ EncodedAs (.sknp x) 0xE0A1 0xF0FF ∧
    (∀ k : KeyCode, (s.reg x).toNat = k.val →
      (∃ t, exec (.skp x) s = .next t ∧ KeepsAllBut [.PC] s t ∧
        t.PC = if isPressed s.keys k then s.PC + 4 else s.PC + 2) ∧
      ∃ t, exec (.sknp x) s = .next t ∧ KeepsAllBut [.PC] s t ∧
        t.PC = if isPressed s.keys k then s.PC + 2 else s.PC + 4) ∧
    (15 < (s.reg x).toNat →
      HaltsOnly (exec (.skp x) s) s .keyCodeOutOfRange (encode (.skp x)) ∧
        HaltsOnly (exec (.sknp x) s) s .keyCodeOutOfRange (encode (.sknp x)))

/-- R214: with a key down Fx0A stores one that is down, in its own slot; with none it blocks and writes nothing but PC
(R106; the spec's decisions D11, D12, logs 5 and 16). -/
def Obligations.KeyWaitStoresAPressedKeyOrBlocks : Prop :=
  ∀ (x : Reg) (s : State), EncodedAs (.ldVxK x) 0xF00A 0xF0FF ∧
    ((∃ k, isPressed s.keys k = true) →
      ∃ t k, exec (.ldVxK x) s = .next t ∧ isPressed s.keys k = true ∧ (t.reg x).toNat = k.val ∧
        KeepsRegsBut [x] s t ∧ KeepsAllBut [.V, .PC] s t) ∧
    ((∀ k, isPressed s.keys k = false) →
      ∃ t, exec (.ldVxK x) s = .next t ∧ t.run = .blocked x ∧ t.PC = s.PC + 2 ∧ KeepsAllBut [.run, .PC] s t)

/-- R213, R215, R216: the moves to and from the timers. -/
def Obligations.TimersAreReadAndSet : Prop :=
  ∀ (x : Reg) (s : State),
    EncodedAs (.ldVxDt x) 0xF007 0xF0FF ∧ EncodedAs (.ldDtVx x) 0xF015 0xF0FF ∧ EncodedAs (.ldStVx x) 0xF018 0xF0FF ∧
      (∃ t, exec (.ldVxDt x) s = .next t ∧ t.reg x = s.DT ∧ KeepsRegsBut [x] s t ∧ KeepsAllBut [.V, .PC] s t) ∧
      (∃ t, exec (.ldDtVx x) s = .next t ∧ t.DT = s.reg x ∧ KeepsAllBut [.DT, .PC] s t) ∧
      ∃ t, exec (.ldStVx x) s = .next t ∧ t.ST = s.reg x ∧ KeepsAllBut [.ST, .PC] s t

/-! ## Whole-machine rules -/

/-- 10_state.md R20 to R35, 20_memory.md R51, 40_dispatch_cycle.md R106: which instructions write each register, I, the
stack, SP, the timers, memory and the pixel buffer; which leave PC at other than PC + 2 (mod 2^16, D5, log 11) and which
change the run state; that only Fx0A blocks and only Cxkk draws (R267); and that none writes what is the host's or the
scheduler's (R261, R266), which stands in State by the model's choice (logs 3, 4, 6, 7, 8). -/
def Obligations.OnlyTheNamedInstructionsWriteEachPart : Prop :=
  ∀ (i : Instr) (s t : State), exec i s = .next t →
    (∀ r, t.reg r ≠ s.reg r → i.mayWrite r = true) ∧ (t.PC ≠ s.PC + 2 → i.transfersControl = true) ∧
    (t.run ≠ s.run → i.mayEndRunnable = true) ∧
    (t.I ≠ s.I → (∃ nnn, i = .ldI nnn) ∨ (∃ x, i = .addI x) ∨ ∃ x, i = .ldF x) ∧
    (t.stack ≠ s.stack → ∃ nnn, i = .call nnn) ∧ (t.SP ≠ s.SP → i = .ret ∨ ∃ nnn, i = .call nnn) ∧
    (t.DT ≠ s.DT → ∃ x, i = .ldDtVx x) ∧ (t.ST ≠ s.ST → ∃ x, i = .ldStVx x) ∧
    (t.mem ≠ s.mem → (∃ x, i = .ldB x) ∨ ∃ x, i = .storeRegs x) ∧
    (t.fb ≠ s.fb → i = .cls ∨ ∃ x y n, i = .drw x y n) ∧
    (∀ x, t.run = .blocked x → s.run = .blocked x ∨ i = .ldVxK x) ∧
    (t.env ≠ s.env → ∃ x kk, i = .rnd x kk) ∧ KeepsAllBut [.V, .I, .PC, .stack, .SP, .DT, .ST, .mem, .fb, .run, .env] s t

/-- 00_scope.md R9, 60_exceptions.md R266, 70_reset_and_hazards.md R283: a new session takes whichever `select_key` the host
supplies, that is every function `f` from nonempty key sets to members; Fx0A, and the poll that completes one
(40_dispatch_cycle.md R107), then store `f`'s choice (D11; the table that holds it is the model's, log 5). -/
def Obligations.NewSessionTakesItsOwnSelectKey : Prop :=
  ∀ f : KeySet → KeyCode, (∀ keys k, isPressed keys k = true → isPressed keys (f keys) = true) →
    ∃ picks : List (KeySet × KeyCode),
      (∀ (font : Vector Byte 80) (speed : Nat) (wrapY : Bool) (bytes : List Byte), bytes.length ≤ 3584 →
        ∃ t, boot font ⟨speed, wrapY, picks⟩ (some bytes) = .ok t ∧ t.cfg = ⟨speed, wrapY, picks⟩) ∧
      ∀ (s : State) (x : Reg) (k : KeyCode), s.cfg.keyPicks = picks → isPressed s.keys k = true →
        (∃ t, exec (.ldVxK x) s = .next t ∧ (t.reg x).toNat = (f s.keys).val ∧ KeepsRegsBut [x] s t ∧
          KeepsAllBut [.V, .PC] s t) ∧
        ∀ left, s.run = .blocked x → s.phase = .slots (left + 1) →
          ∃ t, step s = .next t ∧ (t.reg x).toNat = (f s.keys).val ∧ t.run = .runnable ∧ t.phase = .slots left ∧
            KeepsRegsBut [x] s t ∧ KeepsAllBut [.V, .run, .phase] s t
end

