-- ==== Sys2Proof/Laws/Decode.lean ====
section
/-! SUPPORT. The fields and the fixed digits of an encoded word, by the shape of its pattern, and that every instruction's operands fit their fields (spec/30_encoding.md R71, R72, R74). -/

namespace Sys2Proof

/-- The field types carry the bounds, so every instruction is well formed. -/
theorem Instr.wf_all (i : Instr) : i.wf = true := by
  cases i <;> simp [Instr.wf, regOk, heightOk, byteOk, addrOk] <;> omega

theorem extract_append_low {a b : Nat} (u : BitVec a) (v : BitVec b) : (u ++ v).extractLsb' 0 b = v := by
  apply BitVec.eq_of_getLsbD_eq
  intro i hi
  simp [BitVec.getLsbD_append, hi]

theorem extract_append_high {a b : Nat} (u : BitVec a) (v : BitVec b) (k n : Nat) (h : b ≤ k) :
    (u ++ v).extractLsb' k n = u.extractLsb' (k - b) n := by
  apply BitVec.eq_of_getLsbD_eq
  intro i hi
  have : ¬ (k + i < b) := by omega
  simp [BitVec.getLsbD_append, hi, this, show k + i - b = k - b + i by omega]

section
variable (d e : BitVec 4) (x y : Reg) (kk : Byte) (nnn : Addr12)

/-! Words with a 12-bit address. -/

theorem fieldNNN_address : fieldNNN (d ++ nnn) = nnn := extract_append_low d nnn

theorem fieldOp_address : fieldOp (d ++ nnn) = d.toNat :=
  congrArg BitVec.toNat
    ((extract_append_high d nnn 12 4 (by decide)).trans BitVec.extractLsb'_eq_self)

/-! Words with a register and a byte. -/

theorem fieldKK_regByte : fieldKK (d ++ nibble x ++ kk) = kk := extract_append_low (d ++ nibble x) kk

theorem fieldX_regByte : fieldX (d ++ nibble x ++ kk) = x :=
  congrArg BitVec.toFin
    ((extract_append_high (d ++ nibble x) kk 8 4 (by decide)).trans (extract_append_low d (nibble x)))

theorem fieldOp_regByte : fieldOp (d ++ nibble x ++ kk) = d.toNat :=
  congrArg BitVec.toNat
    ((extract_append_high (d ++ nibble x) kk 12 4 (by decide)).trans
      ((extract_append_high d (nibble x) 4 4 (by decide)).trans BitVec.extractLsb'_eq_self))

/-! Words with two registers and a nibble. -/

theorem fieldN_regReg : fieldN (d ++ nibble x ++ nibble y ++ e) = e.toFin :=
  congrArg BitVec.toFin (extract_append_low (d ++ nibble x ++ nibble y) e)

theorem fieldY_regReg : fieldY (d ++ nibble x ++ nibble y ++ e) = y :=
  congrArg BitVec.toFin
    ((extract_append_high (d ++ nibble x ++ nibble y) e 4 4 (by decide)).trans
      (extract_append_low (d ++ nibble x) (nibble y)))

theorem fieldX_regReg : fieldX (d ++ nibble x ++ nibble y ++ e) = x :=
  congrArg BitVec.toFin
    ((extract_append_high (d ++ nibble x ++ nibble y) e 8 4 (by decide)).trans
      ((extract_append_high (d ++ nibble x) (nibble y) 4 4 (by decide)).trans (extract_append_low d (nibble x))))

theorem fieldOp_regReg : fieldOp (d ++ nibble x ++ nibble y ++ e) = d.toNat :=
  congrArg BitVec.toNat
    ((extract_append_high (d ++ nibble x ++ nibble y) e 12 4 (by decide)).trans
      ((extract_append_high (d ++ nibble x) (nibble y) 8 4 (by decide)).trans
        ((extract_append_high d (nibble x) 4 4 (by decide)).trans BitVec.extractLsb'_eq_self)))

theorem and_nibble_ones : d &&& 0xF#4 = d := BitVec.and_allOnes

theorem and_byte_ones : kk &&& 0xFF#8 = kk := BitVec.and_allOnes

/-! The fixed digits under each mask of the opcode table. -/

theorem mask_address : (d ++ nnn : Word16) &&& 0xF000 = d ++ 0#12 :=
  (BitVec.and_append (x₂ := 0xF#4) (y₂ := 0#12)).trans (by rw [BitVec.and_zero, and_nibble_ones d])

theorem mask_regByte : (d ++ nibble x ++ kk : Word16) &&& 0xF000 = d ++ 0#4 ++ 0#8 :=
  (BitVec.and_append (x₂ := 0xF#4 ++ 0#4) (y₂ := 0#8)).trans
    (by rw [BitVec.and_append, BitVec.and_zero, BitVec.and_zero, and_nibble_ones d])

theorem mask_regSelector : (d ++ nibble x ++ kk : Word16) &&& 0xF0FF = d ++ 0#4 ++ kk :=
  (BitVec.and_append (x₂ := 0xF#4 ++ 0#4) (y₂ := 0xFF#8)).trans
    (by rw [BitVec.and_append, BitVec.and_zero, and_nibble_ones d, and_byte_ones kk])

theorem mask_regRegSelector :
    (d ++ nibble x ++ nibble y ++ e : Word16) &&& 0xF00F = d ++ 0#4 ++ 0#4 ++ e :=
  (BitVec.and_append (x₂ := 0xF#4 ++ 0#4 ++ 0#4) (y₂ := 0xF#4)).trans
    (by rw [BitVec.and_append, BitVec.and_append, BitVec.and_zero, BitVec.and_zero, and_nibble_ones d,
      and_nibble_ones e])

theorem mask_regReg : (d ++ nibble x ++ nibble y ++ e : Word16) &&& 0xF000 = d ++ 0#4 ++ 0#4 ++ 0#4 :=
  (BitVec.and_append (x₂ := 0xF#4 ++ 0#4 ++ 0#4) (y₂ := 0#4)).trans
    (by rw [BitVec.and_append, BitVec.and_append, BitVec.and_zero, BitVec.and_zero, BitVec.and_zero,
      and_nibble_ones d])

end

end Sys2Proof
end

