-- ==== Sys2Proof/Laws/State.lean ====
section
/-! SUPPORT. One lemma per field per named update of State, each true by rfl, so that no proof unfolds a record update. -/

namespace Sys2Proof.Machine

section
variable (s : State)

@[simp] theorem State.setReg_V (i : Reg) (v : Byte) : (s.setReg i v).V = s.V.set i.val v := rfl
@[simp] theorem State.setReg_I (i : Reg) (v : Byte) : (s.setReg i v).I = s.I := rfl
@[simp] theorem State.setReg_PC (i : Reg) (v : Byte) : (s.setReg i v).PC = s.PC := rfl
@[simp] theorem State.setReg_stack (i : Reg) (v : Byte) : (s.setReg i v).stack = s.stack := rfl
@[simp] theorem State.setReg_SP (i : Reg) (v : Byte) : (s.setReg i v).SP = s.SP := rfl
@[simp] theorem State.setReg_DT (i : Reg) (v : Byte) : (s.setReg i v).DT = s.DT := rfl
@[simp] theorem State.setReg_ST (i : Reg) (v : Byte) : (s.setReg i v).ST = s.ST := rfl
@[simp] theorem State.setReg_mem (i : Reg) (v : Byte) : (s.setReg i v).mem = s.mem := rfl
@[simp] theorem State.setReg_fb (i : Reg) (v : Byte) : (s.setReg i v).fb = s.fb := rfl
@[simp] theorem State.setReg_run (i : Reg) (v : Byte) : (s.setReg i v).run = s.run := rfl
@[simp] theorem State.setReg_tone (i : Reg) (v : Byte) : (s.setReg i v).tone = s.tone := rfl
@[simp] theorem State.setReg_phase (i : Reg) (v : Byte) : (s.setReg i v).phase = s.phase := rfl
@[simp] theorem State.setReg_keys (i : Reg) (v : Byte) : (s.setReg i v).keys = s.keys := rfl
@[simp] theorem State.setReg_frame (i : Reg) (v : Byte) : (s.setReg i v).frame = s.frame := rfl
@[simp] theorem State.setReg_cfg (i : Reg) (v : Byte) : (s.setReg i v).cfg = s.cfg := rfl
@[simp] theorem State.setReg_env (i : Reg) (v : Byte) : (s.setReg i v).env = s.env := rfl
@[simp] theorem State.setReg_readMem (i : Reg) (v : Byte) (q : Word16) : (s.setReg i v).readMem q = s.readMem q := rfl

@[simp] theorem State.setFlag_V (v : Byte) : (s.setFlag v).V = s.V.set 15 v := rfl
@[simp] theorem State.setFlag_I (v : Byte) : (s.setFlag v).I = s.I := rfl
@[simp] theorem State.setFlag_PC (v : Byte) : (s.setFlag v).PC = s.PC := rfl
@[simp] theorem State.setFlag_stack (v : Byte) : (s.setFlag v).stack = s.stack := rfl
@[simp] theorem State.setFlag_SP (v : Byte) : (s.setFlag v).SP = s.SP := rfl
@[simp] theorem State.setFlag_DT (v : Byte) : (s.setFlag v).DT = s.DT := rfl
@[simp] theorem State.setFlag_ST (v : Byte) : (s.setFlag v).ST = s.ST := rfl
@[simp] theorem State.setFlag_mem (v : Byte) : (s.setFlag v).mem = s.mem := rfl
@[simp] theorem State.setFlag_fb (v : Byte) : (s.setFlag v).fb = s.fb := rfl
@[simp] theorem State.setFlag_run (v : Byte) : (s.setFlag v).run = s.run := rfl
@[simp] theorem State.setFlag_tone (v : Byte) : (s.setFlag v).tone = s.tone := rfl
@[simp] theorem State.setFlag_phase (v : Byte) : (s.setFlag v).phase = s.phase := rfl
@[simp] theorem State.setFlag_keys (v : Byte) : (s.setFlag v).keys = s.keys := rfl
@[simp] theorem State.setFlag_frame (v : Byte) : (s.setFlag v).frame = s.frame := rfl
@[simp] theorem State.setFlag_cfg (v : Byte) : (s.setFlag v).cfg = s.cfg := rfl
@[simp] theorem State.setFlag_env (v : Byte) : (s.setFlag v).env = s.env := rfl
@[simp] theorem State.setFlag_readMem (v : Byte) (q : Word16) : (s.setFlag v).readMem q = s.readMem q := rfl

@[simp] theorem State.storeKey_V (x : Reg) (k : KeyCode) : (s.storeKey x k).V = s.V.set x.val (BitVec.ofNat 8 k.val) := rfl
@[simp] theorem State.storeKey_I (x : Reg) (k : KeyCode) : (s.storeKey x k).I = s.I := rfl
@[simp] theorem State.storeKey_PC (x : Reg) (k : KeyCode) : (s.storeKey x k).PC = s.PC := rfl
@[simp] theorem State.storeKey_stack (x : Reg) (k : KeyCode) : (s.storeKey x k).stack = s.stack := rfl
@[simp] theorem State.storeKey_SP (x : Reg) (k : KeyCode) : (s.storeKey x k).SP = s.SP := rfl
@[simp] theorem State.storeKey_DT (x : Reg) (k : KeyCode) : (s.storeKey x k).DT = s.DT := rfl
@[simp] theorem State.storeKey_ST (x : Reg) (k : KeyCode) : (s.storeKey x k).ST = s.ST := rfl
@[simp] theorem State.storeKey_mem (x : Reg) (k : KeyCode) : (s.storeKey x k).mem = s.mem := rfl
@[simp] theorem State.storeKey_fb (x : Reg) (k : KeyCode) : (s.storeKey x k).fb = s.fb := rfl
@[simp] theorem State.storeKey_run (x : Reg) (k : KeyCode) : (s.storeKey x k).run = s.run := rfl
@[simp] theorem State.storeKey_tone (x : Reg) (k : KeyCode) : (s.storeKey x k).tone = s.tone := rfl
@[simp] theorem State.storeKey_phase (x : Reg) (k : KeyCode) : (s.storeKey x k).phase = s.phase := rfl
@[simp] theorem State.storeKey_keys (x : Reg) (k : KeyCode) : (s.storeKey x k).keys = s.keys := rfl
@[simp] theorem State.storeKey_frame (x : Reg) (k : KeyCode) : (s.storeKey x k).frame = s.frame := rfl
@[simp] theorem State.storeKey_cfg (x : Reg) (k : KeyCode) : (s.storeKey x k).cfg = s.cfg := rfl
@[simp] theorem State.storeKey_env (x : Reg) (k : KeyCode) : (s.storeKey x k).env = s.env := rfl
@[simp] theorem State.storeKey_readMem (x : Reg) (k : KeyCode) (q : Word16) : (s.storeKey x k).readMem q = s.readMem q := rfl

@[simp] theorem State.loadBlock_V (bs : List Byte) : (s.loadBlock bs).V = Vector.ofFn fun k => bs.getD k.val (s.V[k.val]) := rfl
@[simp] theorem State.loadBlock_I (bs : List Byte) : (s.loadBlock bs).I = s.I := rfl
@[simp] theorem State.loadBlock_PC (bs : List Byte) : (s.loadBlock bs).PC = s.PC := rfl
@[simp] theorem State.loadBlock_stack (bs : List Byte) : (s.loadBlock bs).stack = s.stack := rfl
@[simp] theorem State.loadBlock_SP (bs : List Byte) : (s.loadBlock bs).SP = s.SP := rfl
@[simp] theorem State.loadBlock_DT (bs : List Byte) : (s.loadBlock bs).DT = s.DT := rfl
@[simp] theorem State.loadBlock_ST (bs : List Byte) : (s.loadBlock bs).ST = s.ST := rfl
@[simp] theorem State.loadBlock_mem (bs : List Byte) : (s.loadBlock bs).mem = s.mem := rfl
@[simp] theorem State.loadBlock_fb (bs : List Byte) : (s.loadBlock bs).fb = s.fb := rfl
@[simp] theorem State.loadBlock_run (bs : List Byte) : (s.loadBlock bs).run = s.run := rfl
@[simp] theorem State.loadBlock_tone (bs : List Byte) : (s.loadBlock bs).tone = s.tone := rfl
@[simp] theorem State.loadBlock_phase (bs : List Byte) : (s.loadBlock bs).phase = s.phase := rfl
@[simp] theorem State.loadBlock_keys (bs : List Byte) : (s.loadBlock bs).keys = s.keys := rfl
@[simp] theorem State.loadBlock_frame (bs : List Byte) : (s.loadBlock bs).frame = s.frame := rfl
@[simp] theorem State.loadBlock_cfg (bs : List Byte) : (s.loadBlock bs).cfg = s.cfg := rfl
@[simp] theorem State.loadBlock_env (bs : List Byte) : (s.loadBlock bs).env = s.env := rfl
@[simp] theorem State.loadBlock_readMem (bs : List Byte) (q : Word16) : (s.loadBlock bs).readMem q = s.readMem q := rfl

@[simp] theorem State.jumpTo_V (p : Word16) : (s.jumpTo p).V = s.V := rfl
@[simp] theorem State.jumpTo_I (p : Word16) : (s.jumpTo p).I = s.I := rfl
@[simp] theorem State.jumpTo_PC (p : Word16) : (s.jumpTo p).PC = p := rfl
@[simp] theorem State.jumpTo_stack (p : Word16) : (s.jumpTo p).stack = s.stack := rfl
@[simp] theorem State.jumpTo_SP (p : Word16) : (s.jumpTo p).SP = s.SP := rfl
@[simp] theorem State.jumpTo_DT (p : Word16) : (s.jumpTo p).DT = s.DT := rfl
@[simp] theorem State.jumpTo_ST (p : Word16) : (s.jumpTo p).ST = s.ST := rfl
@[simp] theorem State.jumpTo_mem (p : Word16) : (s.jumpTo p).mem = s.mem := rfl
@[simp] theorem State.jumpTo_fb (p : Word16) : (s.jumpTo p).fb = s.fb := rfl
@[simp] theorem State.jumpTo_run (p : Word16) : (s.jumpTo p).run = s.run := rfl
@[simp] theorem State.jumpTo_tone (p : Word16) : (s.jumpTo p).tone = s.tone := rfl
@[simp] theorem State.jumpTo_phase (p : Word16) : (s.jumpTo p).phase = s.phase := rfl
@[simp] theorem State.jumpTo_keys (p : Word16) : (s.jumpTo p).keys = s.keys := rfl
@[simp] theorem State.jumpTo_frame (p : Word16) : (s.jumpTo p).frame = s.frame := rfl
@[simp] theorem State.jumpTo_cfg (p : Word16) : (s.jumpTo p).cfg = s.cfg := rfl
@[simp] theorem State.jumpTo_env (p : Word16) : (s.jumpTo p).env = s.env := rfl
@[simp] theorem State.jumpTo_reg (p : Word16) (j : Reg) : (s.jumpTo p).reg j = s.reg j := rfl
@[simp] theorem State.jumpTo_readMem (p : Word16) (q : Word16) : (s.jumpTo p).readMem q = s.readMem q := rfl

@[simp] theorem State.advance_V : (s.advance).V = s.V := rfl
@[simp] theorem State.advance_I : (s.advance).I = s.I := rfl
@[simp] theorem State.advance_PC : (s.advance).PC = s.PC + 2 := rfl
@[simp] theorem State.advance_stack : (s.advance).stack = s.stack := rfl
@[simp] theorem State.advance_SP : (s.advance).SP = s.SP := rfl
@[simp] theorem State.advance_DT : (s.advance).DT = s.DT := rfl
@[simp] theorem State.advance_ST : (s.advance).ST = s.ST := rfl
@[simp] theorem State.advance_mem : (s.advance).mem = s.mem := rfl
@[simp] theorem State.advance_fb : (s.advance).fb = s.fb := rfl
@[simp] theorem State.advance_run : (s.advance).run = s.run := rfl
@[simp] theorem State.advance_tone : (s.advance).tone = s.tone := rfl
@[simp] theorem State.advance_phase : (s.advance).phase = s.phase := rfl
@[simp] theorem State.advance_keys : (s.advance).keys = s.keys := rfl
@[simp] theorem State.advance_frame : (s.advance).frame = s.frame := rfl
@[simp] theorem State.advance_cfg : (s.advance).cfg = s.cfg := rfl
@[simp] theorem State.advance_env : (s.advance).env = s.env := rfl
@[simp] theorem State.advance_reg (j : Reg) : (s.advance).reg j = s.reg j := rfl
@[simp] theorem State.advance_readMem (q : Word16) : (s.advance).readMem q = s.readMem q := rfl

@[simp] theorem State.setIndex_V (v : Word16) : (s.setIndex v).V = s.V := rfl
@[simp] theorem State.setIndex_I (v : Word16) : (s.setIndex v).I = v := rfl
@[simp] theorem State.setIndex_PC (v : Word16) : (s.setIndex v).PC = s.PC := rfl
@[simp] theorem State.setIndex_stack (v : Word16) : (s.setIndex v).stack = s.stack := rfl
@[simp] theorem State.setIndex_SP (v : Word16) : (s.setIndex v).SP = s.SP := rfl
@[simp] theorem State.setIndex_DT (v : Word16) : (s.setIndex v).DT = s.DT := rfl
@[simp] theorem State.setIndex_ST (v : Word16) : (s.setIndex v).ST = s.ST := rfl
@[simp] theorem State.setIndex_mem (v : Word16) : (s.setIndex v).mem = s.mem := rfl
@[simp] theorem State.setIndex_fb (v : Word16) : (s.setIndex v).fb = s.fb := rfl
@[simp] theorem State.setIndex_run (v : Word16) : (s.setIndex v).run = s.run := rfl
@[simp] theorem State.setIndex_tone (v : Word16) : (s.setIndex v).tone = s.tone := rfl
@[simp] theorem State.setIndex_phase (v : Word16) : (s.setIndex v).phase = s.phase := rfl
@[simp] theorem State.setIndex_keys (v : Word16) : (s.setIndex v).keys = s.keys := rfl
@[simp] theorem State.setIndex_frame (v : Word16) : (s.setIndex v).frame = s.frame := rfl
@[simp] theorem State.setIndex_cfg (v : Word16) : (s.setIndex v).cfg = s.cfg := rfl
@[simp] theorem State.setIndex_env (v : Word16) : (s.setIndex v).env = s.env := rfl
@[simp] theorem State.setIndex_reg (v : Word16) (j : Reg) : (s.setIndex v).reg j = s.reg j := rfl
@[simp] theorem State.setIndex_readMem (v : Word16) (q : Word16) : (s.setIndex v).readMem q = s.readMem q := rfl

@[simp] theorem State.setDelay_V (v : Byte) : (s.setDelay v).V = s.V := rfl
@[simp] theorem State.setDelay_I (v : Byte) : (s.setDelay v).I = s.I := rfl
@[simp] theorem State.setDelay_PC (v : Byte) : (s.setDelay v).PC = s.PC := rfl
@[simp] theorem State.setDelay_stack (v : Byte) : (s.setDelay v).stack = s.stack := rfl
@[simp] theorem State.setDelay_SP (v : Byte) : (s.setDelay v).SP = s.SP := rfl
@[simp] theorem State.setDelay_DT (v : Byte) : (s.setDelay v).DT = v := rfl
@[simp] theorem State.setDelay_ST (v : Byte) : (s.setDelay v).ST = s.ST := rfl
@[simp] theorem State.setDelay_mem (v : Byte) : (s.setDelay v).mem = s.mem := rfl
@[simp] theorem State.setDelay_fb (v : Byte) : (s.setDelay v).fb = s.fb := rfl
@[simp] theorem State.setDelay_run (v : Byte) : (s.setDelay v).run = s.run := rfl
@[simp] theorem State.setDelay_tone (v : Byte) : (s.setDelay v).tone = s.tone := rfl
@[simp] theorem State.setDelay_phase (v : Byte) : (s.setDelay v).phase = s.phase := rfl
@[simp] theorem State.setDelay_keys (v : Byte) : (s.setDelay v).keys = s.keys := rfl
@[simp] theorem State.setDelay_frame (v : Byte) : (s.setDelay v).frame = s.frame := rfl
@[simp] theorem State.setDelay_cfg (v : Byte) : (s.setDelay v).cfg = s.cfg := rfl
@[simp] theorem State.setDelay_env (v : Byte) : (s.setDelay v).env = s.env := rfl
@[simp] theorem State.setDelay_reg (v : Byte) (j : Reg) : (s.setDelay v).reg j = s.reg j := rfl
@[simp] theorem State.setDelay_readMem (v : Byte) (q : Word16) : (s.setDelay v).readMem q = s.readMem q := rfl

@[simp] theorem State.setSound_V (v : Byte) : (s.setSound v).V = s.V := rfl
@[simp] theorem State.setSound_I (v : Byte) : (s.setSound v).I = s.I := rfl
@[simp] theorem State.setSound_PC (v : Byte) : (s.setSound v).PC = s.PC := rfl
@[simp] theorem State.setSound_stack (v : Byte) : (s.setSound v).stack = s.stack := rfl
@[simp] theorem State.setSound_SP (v : Byte) : (s.setSound v).SP = s.SP := rfl
@[simp] theorem State.setSound_DT (v : Byte) : (s.setSound v).DT = s.DT := rfl
@[simp] theorem State.setSound_ST (v : Byte) : (s.setSound v).ST = v := rfl
@[simp] theorem State.setSound_mem (v : Byte) : (s.setSound v).mem = s.mem := rfl
@[simp] theorem State.setSound_fb (v : Byte) : (s.setSound v).fb = s.fb := rfl
@[simp] theorem State.setSound_run (v : Byte) : (s.setSound v).run = s.run := rfl
@[simp] theorem State.setSound_tone (v : Byte) : (s.setSound v).tone = s.tone := rfl
@[simp] theorem State.setSound_phase (v : Byte) : (s.setSound v).phase = s.phase := rfl
@[simp] theorem State.setSound_keys (v : Byte) : (s.setSound v).keys = s.keys := rfl
@[simp] theorem State.setSound_frame (v : Byte) : (s.setSound v).frame = s.frame := rfl
@[simp] theorem State.setSound_cfg (v : Byte) : (s.setSound v).cfg = s.cfg := rfl
@[simp] theorem State.setSound_env (v : Byte) : (s.setSound v).env = s.env := rfl
@[simp] theorem State.setSound_reg (v : Byte) (j : Reg) : (s.setSound v).reg j = s.reg j := rfl
@[simp] theorem State.setSound_readMem (v : Byte) (q : Word16) : (s.setSound v).readMem q = s.readMem q := rfl

@[simp] theorem State.storeBytes_V (a : Word16) (bs : List Byte) : (s.storeBytes a bs).V = s.V := rfl
@[simp] theorem State.storeBytes_I (a : Word16) (bs : List Byte) : (s.storeBytes a bs).I = s.I := rfl
@[simp] theorem State.storeBytes_PC (a : Word16) (bs : List Byte) : (s.storeBytes a bs).PC = s.PC := rfl
@[simp] theorem State.storeBytes_stack (a : Word16) (bs : List Byte) : (s.storeBytes a bs).stack = s.stack := rfl
@[simp] theorem State.storeBytes_SP (a : Word16) (bs : List Byte) : (s.storeBytes a bs).SP = s.SP := rfl
@[simp] theorem State.storeBytes_DT (a : Word16) (bs : List Byte) : (s.storeBytes a bs).DT = s.DT := rfl
@[simp] theorem State.storeBytes_ST (a : Word16) (bs : List Byte) : (s.storeBytes a bs).ST = s.ST := rfl
@[simp] theorem State.storeBytes_mem (a : Word16) (bs : List Byte) : (s.storeBytes a bs).mem = Memory.writeBytes s.mem a bs := rfl
@[simp] theorem State.storeBytes_fb (a : Word16) (bs : List Byte) : (s.storeBytes a bs).fb = s.fb := rfl
@[simp] theorem State.storeBytes_run (a : Word16) (bs : List Byte) : (s.storeBytes a bs).run = s.run := rfl
@[simp] theorem State.storeBytes_tone (a : Word16) (bs : List Byte) : (s.storeBytes a bs).tone = s.tone := rfl
@[simp] theorem State.storeBytes_phase (a : Word16) (bs : List Byte) : (s.storeBytes a bs).phase = s.phase := rfl
@[simp] theorem State.storeBytes_keys (a : Word16) (bs : List Byte) : (s.storeBytes a bs).keys = s.keys := rfl
@[simp] theorem State.storeBytes_frame (a : Word16) (bs : List Byte) : (s.storeBytes a bs).frame = s.frame := rfl
@[simp] theorem State.storeBytes_cfg (a : Word16) (bs : List Byte) : (s.storeBytes a bs).cfg = s.cfg := rfl
@[simp] theorem State.storeBytes_env (a : Word16) (bs : List Byte) : (s.storeBytes a bs).env = s.env := rfl
@[simp] theorem State.storeBytes_reg (a : Word16) (bs : List Byte) (j : Reg) : (s.storeBytes a bs).reg j = s.reg j := rfl

@[simp] theorem State.setPixels_V (fb : FrameBuffer) : (s.setPixels fb).V = s.V := rfl
@[simp] theorem State.setPixels_I (fb : FrameBuffer) : (s.setPixels fb).I = s.I := rfl
@[simp] theorem State.setPixels_PC (fb : FrameBuffer) : (s.setPixels fb).PC = s.PC := rfl
@[simp] theorem State.setPixels_stack (fb : FrameBuffer) : (s.setPixels fb).stack = s.stack := rfl
@[simp] theorem State.setPixels_SP (fb : FrameBuffer) : (s.setPixels fb).SP = s.SP := rfl
@[simp] theorem State.setPixels_DT (fb : FrameBuffer) : (s.setPixels fb).DT = s.DT := rfl
@[simp] theorem State.setPixels_ST (fb : FrameBuffer) : (s.setPixels fb).ST = s.ST := rfl
@[simp] theorem State.setPixels_mem (fb : FrameBuffer) : (s.setPixels fb).mem = s.mem := rfl
@[simp] theorem State.setPixels_fb (fb : FrameBuffer) : (s.setPixels fb).fb = fb := rfl
@[simp] theorem State.setPixels_run (fb : FrameBuffer) : (s.setPixels fb).run = s.run := rfl
@[simp] theorem State.setPixels_tone (fb : FrameBuffer) : (s.setPixels fb).tone = s.tone := rfl
@[simp] theorem State.setPixels_phase (fb : FrameBuffer) : (s.setPixels fb).phase = s.phase := rfl
@[simp] theorem State.setPixels_keys (fb : FrameBuffer) : (s.setPixels fb).keys = s.keys := rfl
@[simp] theorem State.setPixels_frame (fb : FrameBuffer) : (s.setPixels fb).frame = s.frame := rfl
@[simp] theorem State.setPixels_cfg (fb : FrameBuffer) : (s.setPixels fb).cfg = s.cfg := rfl
@[simp] theorem State.setPixels_env (fb : FrameBuffer) : (s.setPixels fb).env = s.env := rfl
@[simp] theorem State.setPixels_reg (fb : FrameBuffer) (j : Reg) : (s.setPixels fb).reg j = s.reg j := rfl
@[simp] theorem State.setPixels_readMem (fb : FrameBuffer) (q : Word16) : (s.setPixels fb).readMem q = s.readMem q := rfl

@[simp] theorem State.setRun_V (r : RunState) : (s.setRun r).V = s.V := rfl
@[simp] theorem State.setRun_I (r : RunState) : (s.setRun r).I = s.I := rfl
@[simp] theorem State.setRun_PC (r : RunState) : (s.setRun r).PC = s.PC := rfl
@[simp] theorem State.setRun_stack (r : RunState) : (s.setRun r).stack = s.stack := rfl
@[simp] theorem State.setRun_SP (r : RunState) : (s.setRun r).SP = s.SP := rfl
@[simp] theorem State.setRun_DT (r : RunState) : (s.setRun r).DT = s.DT := rfl
@[simp] theorem State.setRun_ST (r : RunState) : (s.setRun r).ST = s.ST := rfl
@[simp] theorem State.setRun_mem (r : RunState) : (s.setRun r).mem = s.mem := rfl
@[simp] theorem State.setRun_fb (r : RunState) : (s.setRun r).fb = s.fb := rfl
@[simp] theorem State.setRun_run (r : RunState) : (s.setRun r).run = r := rfl
@[simp] theorem State.setRun_tone (r : RunState) : (s.setRun r).tone = s.tone := rfl
@[simp] theorem State.setRun_phase (r : RunState) : (s.setRun r).phase = s.phase := rfl
@[simp] theorem State.setRun_keys (r : RunState) : (s.setRun r).keys = s.keys := rfl
@[simp] theorem State.setRun_frame (r : RunState) : (s.setRun r).frame = s.frame := rfl
@[simp] theorem State.setRun_cfg (r : RunState) : (s.setRun r).cfg = s.cfg := rfl
@[simp] theorem State.setRun_env (r : RunState) : (s.setRun r).env = s.env := rfl
@[simp] theorem State.setRun_reg (r : RunState) (j : Reg) : (s.setRun r).reg j = s.reg j := rfl
@[simp] theorem State.setRun_readMem (r : RunState) (q : Word16) : (s.setRun r).readMem q = s.readMem q := rfl

@[simp] theorem State.block_V (x : Reg) : (s.block x).V = s.V := rfl
@[simp] theorem State.block_I (x : Reg) : (s.block x).I = s.I := rfl
@[simp] theorem State.block_PC (x : Reg) : (s.block x).PC = s.PC := rfl
@[simp] theorem State.block_stack (x : Reg) : (s.block x).stack = s.stack := rfl
@[simp] theorem State.block_SP (x : Reg) : (s.block x).SP = s.SP := rfl
@[simp] theorem State.block_DT (x : Reg) : (s.block x).DT = s.DT := rfl
@[simp] theorem State.block_ST (x : Reg) : (s.block x).ST = s.ST := rfl
@[simp] theorem State.block_mem (x : Reg) : (s.block x).mem = s.mem := rfl
@[simp] theorem State.block_fb (x : Reg) : (s.block x).fb = s.fb := rfl
@[simp] theorem State.block_run (x : Reg) : (s.block x).run = .blocked x := rfl
@[simp] theorem State.block_tone (x : Reg) : (s.block x).tone = s.tone := rfl
@[simp] theorem State.block_phase (x : Reg) : (s.block x).phase = s.phase := rfl
@[simp] theorem State.block_keys (x : Reg) : (s.block x).keys = s.keys := rfl
@[simp] theorem State.block_frame (x : Reg) : (s.block x).frame = s.frame := rfl
@[simp] theorem State.block_cfg (x : Reg) : (s.block x).cfg = s.cfg := rfl
@[simp] theorem State.block_env (x : Reg) : (s.block x).env = s.env := rfl
@[simp] theorem State.block_reg (x : Reg) (j : Reg) : (s.block x).reg j = s.reg j := rfl
@[simp] theorem State.block_readMem (x : Reg) (q : Word16) : (s.block x).readMem q = s.readMem q := rfl

@[simp] theorem State.raiseFatal_V (c : HaltCode) (op : Word16) : (s.raiseFatal c op).V = s.V := rfl
@[simp] theorem State.raiseFatal_I (c : HaltCode) (op : Word16) : (s.raiseFatal c op).I = s.I := rfl
@[simp] theorem State.raiseFatal_PC (c : HaltCode) (op : Word16) : (s.raiseFatal c op).PC = s.PC := rfl
@[simp] theorem State.raiseFatal_stack (c : HaltCode) (op : Word16) : (s.raiseFatal c op).stack = s.stack := rfl
@[simp] theorem State.raiseFatal_SP (c : HaltCode) (op : Word16) : (s.raiseFatal c op).SP = s.SP := rfl
@[simp] theorem State.raiseFatal_DT (c : HaltCode) (op : Word16) : (s.raiseFatal c op).DT = s.DT := rfl
@[simp] theorem State.raiseFatal_ST (c : HaltCode) (op : Word16) : (s.raiseFatal c op).ST = s.ST := rfl
@[simp] theorem State.raiseFatal_mem (c : HaltCode) (op : Word16) : (s.raiseFatal c op).mem = s.mem := rfl
@[simp] theorem State.raiseFatal_fb (c : HaltCode) (op : Word16) : (s.raiseFatal c op).fb = s.fb := rfl
@[simp] theorem State.raiseFatal_run (c : HaltCode) (op : Word16) : (s.raiseFatal c op).run = .halted { code := c, opcode := op, pc := s.PC, sp := s.SP } := rfl
@[simp] theorem State.raiseFatal_tone (c : HaltCode) (op : Word16) : (s.raiseFatal c op).tone = s.tone := rfl
@[simp] theorem State.raiseFatal_phase (c : HaltCode) (op : Word16) : (s.raiseFatal c op).phase = s.phase := rfl
@[simp] theorem State.raiseFatal_keys (c : HaltCode) (op : Word16) : (s.raiseFatal c op).keys = s.keys := rfl
@[simp] theorem State.raiseFatal_frame (c : HaltCode) (op : Word16) : (s.raiseFatal c op).frame = s.frame := rfl
@[simp] theorem State.raiseFatal_cfg (c : HaltCode) (op : Word16) : (s.raiseFatal c op).cfg = s.cfg := rfl
@[simp] theorem State.raiseFatal_env (c : HaltCode) (op : Word16) : (s.raiseFatal c op).env = s.env := rfl
@[simp] theorem State.raiseFatal_reg (c : HaltCode) (op : Word16) (j : Reg) : (s.raiseFatal c op).reg j = s.reg j := rfl
@[simp] theorem State.raiseFatal_readMem (c : HaltCode) (op : Word16) (q : Word16) : (s.raiseFatal c op).readMem q = s.readMem q := rfl

@[simp] theorem State.takeDraw_V : (s.takeDraw).V = s.V := rfl
@[simp] theorem State.takeDraw_I : (s.takeDraw).I = s.I := rfl
@[simp] theorem State.takeDraw_PC : (s.takeDraw).PC = s.PC := rfl
@[simp] theorem State.takeDraw_stack : (s.takeDraw).stack = s.stack := rfl
@[simp] theorem State.takeDraw_SP : (s.takeDraw).SP = s.SP := rfl
@[simp] theorem State.takeDraw_DT : (s.takeDraw).DT = s.DT := rfl
@[simp] theorem State.takeDraw_ST : (s.takeDraw).ST = s.ST := rfl
@[simp] theorem State.takeDraw_mem : (s.takeDraw).mem = s.mem := rfl
@[simp] theorem State.takeDraw_fb : (s.takeDraw).fb = s.fb := rfl
@[simp] theorem State.takeDraw_run : (s.takeDraw).run = s.run := rfl
@[simp] theorem State.takeDraw_tone : (s.takeDraw).tone = s.tone := rfl
@[simp] theorem State.takeDraw_phase : (s.takeDraw).phase = s.phase := rfl
@[simp] theorem State.takeDraw_keys : (s.takeDraw).keys = s.keys := rfl
@[simp] theorem State.takeDraw_frame : (s.takeDraw).frame = s.frame := rfl
@[simp] theorem State.takeDraw_cfg : (s.takeDraw).cfg = s.cfg := rfl
@[simp] theorem State.takeDraw_env : (s.takeDraw).env = { s.env with draws := s.env.draws.tail, drawNo := s.env.drawNo + 1 } := rfl
@[simp] theorem State.takeDraw_reg (j : Reg) : (s.takeDraw).reg j = s.reg j := rfl
@[simp] theorem State.takeDraw_readMem (q : Word16) : (s.takeDraw).readMem q = s.readMem q := rfl

@[simp] theorem State.takeInput_V : (s.takeInput).V = s.V := rfl
@[simp] theorem State.takeInput_I : (s.takeInput).I = s.I := rfl
@[simp] theorem State.takeInput_PC : (s.takeInput).PC = s.PC := rfl
@[simp] theorem State.takeInput_stack : (s.takeInput).stack = s.stack := rfl
@[simp] theorem State.takeInput_SP : (s.takeInput).SP = s.SP := rfl
@[simp] theorem State.takeInput_DT : (s.takeInput).DT = s.DT := rfl
@[simp] theorem State.takeInput_ST : (s.takeInput).ST = s.ST := rfl
@[simp] theorem State.takeInput_mem : (s.takeInput).mem = s.mem := rfl
@[simp] theorem State.takeInput_fb : (s.takeInput).fb = s.fb := rfl
@[simp] theorem State.takeInput_run : (s.takeInput).run = s.run := rfl
@[simp] theorem State.takeInput_tone : (s.takeInput).tone = s.tone := rfl
@[simp] theorem State.takeInput_phase : (s.takeInput).phase = s.phase := rfl
@[simp] theorem State.takeInput_keys : (s.takeInput).keys = s.keys := rfl
@[simp] theorem State.takeInput_frame : (s.takeInput).frame = s.frame := rfl
@[simp] theorem State.takeInput_cfg : (s.takeInput).cfg = s.cfg := rfl
@[simp] theorem State.takeInput_env : (s.takeInput).env = { s.env with inputs := s.env.inputs.tail, tickNo := s.env.tickNo + 1 } := rfl
@[simp] theorem State.takeInput_reg (j : Reg) : (s.takeInput).reg j = s.reg j := rfl
@[simp] theorem State.takeInput_readMem (q : Word16) : (s.takeInput).readMem q = s.readMem q := rfl

@[simp] theorem State.beginSlots_V (keys : KeySet) : (s.beginSlots keys).V = s.V := rfl
@[simp] theorem State.beginSlots_I (keys : KeySet) : (s.beginSlots keys).I = s.I := rfl
@[simp] theorem State.beginSlots_PC (keys : KeySet) : (s.beginSlots keys).PC = s.PC := rfl
@[simp] theorem State.beginSlots_stack (keys : KeySet) : (s.beginSlots keys).stack = s.stack := rfl
@[simp] theorem State.beginSlots_SP (keys : KeySet) : (s.beginSlots keys).SP = s.SP := rfl
@[simp] theorem State.beginSlots_DT (keys : KeySet) : (s.beginSlots keys).DT = s.DT := rfl
@[simp] theorem State.beginSlots_ST (keys : KeySet) : (s.beginSlots keys).ST = s.ST := rfl
@[simp] theorem State.beginSlots_mem (keys : KeySet) : (s.beginSlots keys).mem = s.mem := rfl
@[simp] theorem State.beginSlots_fb (keys : KeySet) : (s.beginSlots keys).fb = s.fb := rfl
@[simp] theorem State.beginSlots_run (keys : KeySet) : (s.beginSlots keys).run = s.run := rfl
@[simp] theorem State.beginSlots_tone (keys : KeySet) : (s.beginSlots keys).tone = s.tone := rfl
@[simp] theorem State.beginSlots_phase (keys : KeySet) : (s.beginSlots keys).phase = .slots s.cfg.speed := rfl
@[simp] theorem State.beginSlots_keys (keys : KeySet) : (s.beginSlots keys).keys = keys := rfl
@[simp] theorem State.beginSlots_frame (keys : KeySet) : (s.beginSlots keys).frame = s.frame := rfl
@[simp] theorem State.beginSlots_cfg (keys : KeySet) : (s.beginSlots keys).cfg = s.cfg := rfl
@[simp] theorem State.beginSlots_env (keys : KeySet) : (s.beginSlots keys).env = s.env := rfl
@[simp] theorem State.beginSlots_reg (keys : KeySet) (j : Reg) : (s.beginSlots keys).reg j = s.reg j := rfl
@[simp] theorem State.beginSlots_readMem (keys : KeySet) (q : Word16) : (s.beginSlots keys).readMem q = s.readMem q := rfl

@[simp] theorem State.endTick_V : (s.endTick).V = s.V := rfl
@[simp] theorem State.endTick_I : (s.endTick).I = s.I := rfl
@[simp] theorem State.endTick_PC : (s.endTick).PC = s.PC := rfl
@[simp] theorem State.endTick_stack : (s.endTick).stack = s.stack := rfl
@[simp] theorem State.endTick_SP : (s.endTick).SP = s.SP := rfl
@[simp] theorem State.endTick_DT : (s.endTick).DT = countDown s.DT := rfl
@[simp] theorem State.endTick_ST : (s.endTick).ST = countDown s.ST := rfl
@[simp] theorem State.endTick_mem : (s.endTick).mem = s.mem := rfl
@[simp] theorem State.endTick_fb : (s.endTick).fb = s.fb := rfl
@[simp] theorem State.endTick_run : (s.endTick).run = s.run := rfl
@[simp] theorem State.endTick_tone : (s.endTick).tone = decide (0 < (countDown s.ST).toNat) := rfl
@[simp] theorem State.endTick_phase : (s.endTick).phase = .between := rfl
@[simp] theorem State.endTick_keys : (s.endTick).keys = s.keys := rfl
@[simp] theorem State.endTick_frame : (s.endTick).frame = some s.fb := rfl
@[simp] theorem State.endTick_cfg : (s.endTick).cfg = s.cfg := rfl
@[simp] theorem State.endTick_env : (s.endTick).env = s.env := rfl
@[simp] theorem State.endTick_reg (j : Reg) : (s.endTick).reg j = s.reg j := rfl
@[simp] theorem State.endTick_readMem (q : Word16) : (s.endTick).readMem q = s.readMem q := rfl

@[simp] theorem State.readyToFetch_V : (s.readyToFetch).V = s.V := rfl
@[simp] theorem State.readyToFetch_I : (s.readyToFetch).I = s.I := rfl
@[simp] theorem State.readyToFetch_PC : (s.readyToFetch).PC = s.PC := rfl
@[simp] theorem State.readyToFetch_stack : (s.readyToFetch).stack = s.stack := rfl
@[simp] theorem State.readyToFetch_SP : (s.readyToFetch).SP = s.SP := rfl
@[simp] theorem State.readyToFetch_DT : (s.readyToFetch).DT = s.DT := rfl
@[simp] theorem State.readyToFetch_ST : (s.readyToFetch).ST = s.ST := rfl
@[simp] theorem State.readyToFetch_mem : (s.readyToFetch).mem = s.mem := rfl
@[simp] theorem State.readyToFetch_fb : (s.readyToFetch).fb = s.fb := rfl
@[simp] theorem State.readyToFetch_run : (s.readyToFetch).run = .runnable := rfl
@[simp] theorem State.readyToFetch_tone : (s.readyToFetch).tone = s.tone := rfl
@[simp] theorem State.readyToFetch_phase : (s.readyToFetch).phase = .slots 1 := rfl
@[simp] theorem State.readyToFetch_keys : (s.readyToFetch).keys = s.keys := rfl
@[simp] theorem State.readyToFetch_frame : (s.readyToFetch).frame = s.frame := rfl
@[simp] theorem State.readyToFetch_cfg : (s.readyToFetch).cfg = s.cfg := rfl
@[simp] theorem State.readyToFetch_env : (s.readyToFetch).env = s.env := rfl
@[simp] theorem State.readyToFetch_reg (j : Reg) : (s.readyToFetch).reg j = s.reg j := rfl
@[simp] theorem State.readyToFetch_readMem (q : Word16) : (s.readyToFetch).readMem q = s.readMem q := rfl

@[simp] theorem State.latchedFlagThenResult_I (f g : Byte → Byte → Byte) (x y : Reg) : (s.latchedFlagThenResult f g x y).I = s.I := rfl
@[simp] theorem State.latchedFlagThenResult_PC (f g : Byte → Byte → Byte) (x y : Reg) : (s.latchedFlagThenResult f g x y).PC = s.PC := rfl
@[simp] theorem State.latchedFlagThenResult_stack (f g : Byte → Byte → Byte) (x y : Reg) : (s.latchedFlagThenResult f g x y).stack = s.stack := rfl
@[simp] theorem State.latchedFlagThenResult_SP (f g : Byte → Byte → Byte) (x y : Reg) : (s.latchedFlagThenResult f g x y).SP = s.SP := rfl
@[simp] theorem State.latchedFlagThenResult_DT (f g : Byte → Byte → Byte) (x y : Reg) : (s.latchedFlagThenResult f g x y).DT = s.DT := rfl
@[simp] theorem State.latchedFlagThenResult_ST (f g : Byte → Byte → Byte) (x y : Reg) : (s.latchedFlagThenResult f g x y).ST = s.ST := rfl
@[simp] theorem State.latchedFlagThenResult_mem (f g : Byte → Byte → Byte) (x y : Reg) : (s.latchedFlagThenResult f g x y).mem = s.mem := rfl
@[simp] theorem State.latchedFlagThenResult_fb (f g : Byte → Byte → Byte) (x y : Reg) : (s.latchedFlagThenResult f g x y).fb = s.fb := rfl
@[simp] theorem State.latchedFlagThenResult_run (f g : Byte → Byte → Byte) (x y : Reg) : (s.latchedFlagThenResult f g x y).run = s.run := rfl
@[simp] theorem State.latchedFlagThenResult_tone (f g : Byte → Byte → Byte) (x y : Reg) : (s.latchedFlagThenResult f g x y).tone = s.tone := rfl
@[simp] theorem State.latchedFlagThenResult_phase (f g : Byte → Byte → Byte) (x y : Reg) : (s.latchedFlagThenResult f g x y).phase = s.phase := rfl
@[simp] theorem State.latchedFlagThenResult_keys (f g : Byte → Byte → Byte) (x y : Reg) : (s.latchedFlagThenResult f g x y).keys = s.keys := rfl
@[simp] theorem State.latchedFlagThenResult_frame (f g : Byte → Byte → Byte) (x y : Reg) : (s.latchedFlagThenResult f g x y).frame = s.frame := rfl
@[simp] theorem State.latchedFlagThenResult_cfg (f g : Byte → Byte → Byte) (x y : Reg) : (s.latchedFlagThenResult f g x y).cfg = s.cfg := rfl
@[simp] theorem State.latchedFlagThenResult_env (f g : Byte → Byte → Byte) (x y : Reg) : (s.latchedFlagThenResult f g x y).env = s.env := rfl
@[simp] theorem State.latchedFlagThenResult_readMem (f g : Byte → Byte → Byte) (x y : Reg) (q : Word16) : (s.latchedFlagThenResult f g x y).readMem q = s.readMem q := rfl

@[simp] theorem State.flagThenResult_I (f g : Byte → Byte → Byte) (x y : Reg) : (s.flagThenResult f g x y).I = s.I := rfl
@[simp] theorem State.flagThenResult_PC (f g : Byte → Byte → Byte) (x y : Reg) : (s.flagThenResult f g x y).PC = s.PC := rfl
@[simp] theorem State.flagThenResult_stack (f g : Byte → Byte → Byte) (x y : Reg) : (s.flagThenResult f g x y).stack = s.stack := rfl
@[simp] theorem State.flagThenResult_SP (f g : Byte → Byte → Byte) (x y : Reg) : (s.flagThenResult f g x y).SP = s.SP := rfl
@[simp] theorem State.flagThenResult_DT (f g : Byte → Byte → Byte) (x y : Reg) : (s.flagThenResult f g x y).DT = s.DT := rfl
@[simp] theorem State.flagThenResult_ST (f g : Byte → Byte → Byte) (x y : Reg) : (s.flagThenResult f g x y).ST = s.ST := rfl
@[simp] theorem State.flagThenResult_mem (f g : Byte → Byte → Byte) (x y : Reg) : (s.flagThenResult f g x y).mem = s.mem := rfl
@[simp] theorem State.flagThenResult_fb (f g : Byte → Byte → Byte) (x y : Reg) : (s.flagThenResult f g x y).fb = s.fb := rfl
@[simp] theorem State.flagThenResult_run (f g : Byte → Byte → Byte) (x y : Reg) : (s.flagThenResult f g x y).run = s.run := rfl
@[simp] theorem State.flagThenResult_tone (f g : Byte → Byte → Byte) (x y : Reg) : (s.flagThenResult f g x y).tone = s.tone := rfl
@[simp] theorem State.flagThenResult_phase (f g : Byte → Byte → Byte) (x y : Reg) : (s.flagThenResult f g x y).phase = s.phase := rfl
@[simp] theorem State.flagThenResult_keys (f g : Byte → Byte → Byte) (x y : Reg) : (s.flagThenResult f g x y).keys = s.keys := rfl
@[simp] theorem State.flagThenResult_frame (f g : Byte → Byte → Byte) (x y : Reg) : (s.flagThenResult f g x y).frame = s.frame := rfl
@[simp] theorem State.flagThenResult_cfg (f g : Byte → Byte → Byte) (x y : Reg) : (s.flagThenResult f g x y).cfg = s.cfg := rfl
@[simp] theorem State.flagThenResult_env (f g : Byte → Byte → Byte) (x y : Reg) : (s.flagThenResult f g x y).env = s.env := rfl
@[simp] theorem State.flagThenResult_readMem (f g : Byte → Byte → Byte) (x y : Reg) (q : Word16) : (s.flagThenResult f g x y).readMem q = s.readMem q := rfl

@[simp] theorem State.afterSlot_V (left : Nat) : (s.afterSlot left).V = s.V := rfl
@[simp] theorem State.afterSlot_I (left : Nat) : (s.afterSlot left).I = s.I := rfl
@[simp] theorem State.afterSlot_PC (left : Nat) : (s.afterSlot left).PC = s.PC := rfl
@[simp] theorem State.afterSlot_stack (left : Nat) : (s.afterSlot left).stack = s.stack := rfl
@[simp] theorem State.afterSlot_SP (left : Nat) : (s.afterSlot left).SP = s.SP := rfl
@[simp] theorem State.afterSlot_DT (left : Nat) : (s.afterSlot left).DT = s.DT := rfl
@[simp] theorem State.afterSlot_ST (left : Nat) : (s.afterSlot left).ST = s.ST := rfl
@[simp] theorem State.afterSlot_mem (left : Nat) : (s.afterSlot left).mem = s.mem := rfl
@[simp] theorem State.afterSlot_fb (left : Nat) : (s.afterSlot left).fb = s.fb := rfl
@[simp] theorem State.afterSlot_run (left : Nat) : (s.afterSlot left).run = s.run := rfl
@[simp] theorem State.afterSlot_tone (left : Nat) : (s.afterSlot left).tone = s.tone := rfl
@[simp] theorem State.afterSlot_phase (left : Nat) : (s.afterSlot left).phase = phaseAfter left s.run := rfl
@[simp] theorem State.afterSlot_keys (left : Nat) : (s.afterSlot left).keys = s.keys := rfl
@[simp] theorem State.afterSlot_frame (left : Nat) : (s.afterSlot left).frame = s.frame := rfl
@[simp] theorem State.afterSlot_cfg (left : Nat) : (s.afterSlot left).cfg = s.cfg := rfl
@[simp] theorem State.afterSlot_env (left : Nat) : (s.afterSlot left).env = s.env := rfl
@[simp] theorem State.afterSlot_reg (left : Nat) (r : Reg) : (s.afterSlot left).reg r = s.reg r := rfl
@[simp] theorem State.afterSlot_readMem (left : Nat) (p : Word16) : (s.afterSlot left).readMem p = s.readMem p := rfl

@[simp] theorem State.skipIf_V (c : Bool) : (s.skipIf c).V = s.V := by cases c <;> rfl
@[simp] theorem State.skipIf_I (c : Bool) : (s.skipIf c).I = s.I := by cases c <;> rfl
@[simp] theorem State.skipIf_PC (c : Bool) : (s.skipIf c).PC = if c then s.PC + 2 else s.PC := by
  cases c <;> rfl
@[simp] theorem State.skipIf_stack (c : Bool) : (s.skipIf c).stack = s.stack := by cases c <;> rfl
@[simp] theorem State.skipIf_SP (c : Bool) : (s.skipIf c).SP = s.SP := by cases c <;> rfl
@[simp] theorem State.skipIf_DT (c : Bool) : (s.skipIf c).DT = s.DT := by cases c <;> rfl
@[simp] theorem State.skipIf_ST (c : Bool) : (s.skipIf c).ST = s.ST := by cases c <;> rfl
@[simp] theorem State.skipIf_mem (c : Bool) : (s.skipIf c).mem = s.mem := by cases c <;> rfl
@[simp] theorem State.skipIf_fb (c : Bool) : (s.skipIf c).fb = s.fb := by cases c <;> rfl
@[simp] theorem State.skipIf_run (c : Bool) : (s.skipIf c).run = s.run := by cases c <;> rfl
@[simp] theorem State.skipIf_tone (c : Bool) : (s.skipIf c).tone = s.tone := by cases c <;> rfl
@[simp] theorem State.skipIf_phase (c : Bool) : (s.skipIf c).phase = s.phase := by cases c <;> rfl
@[simp] theorem State.skipIf_keys (c : Bool) : (s.skipIf c).keys = s.keys := by cases c <;> rfl
@[simp] theorem State.skipIf_frame (c : Bool) : (s.skipIf c).frame = s.frame := by cases c <;> rfl
@[simp] theorem State.skipIf_cfg (c : Bool) : (s.skipIf c).cfg = s.cfg := by cases c <;> rfl
@[simp] theorem State.skipIf_env (c : Bool) : (s.skipIf c).env = s.env := by cases c <;> rfl
@[simp] theorem State.skipIf_reg (c : Bool) (r : Reg) : (s.skipIf c).reg r = s.reg r := by cases c <;> rfl
@[simp] theorem State.skipIf_readMem (c : Bool) (p : Word16) : (s.skipIf c).readMem p = s.readMem p := by cases c <;> rfl

end

end Sys2Proof.Machine
end

