-- ==== Sys2Proof/Laws/Memory.lean ====
section
/-! SUPPORT. The laws of memory: read after write, a write leaves every other address alone, every operation keeps the canonical form (spec/20_memory.md R53). -/

namespace Sys2Proof.Machine

theorem physical_eq (a : Word16) : physical a = a.toNat % 4096 := rfl

/-- The effective address of offset `k` is `(I + k) mod 4096`: the reduction mod 2^16 before it changes nothing
(43_index_memory.md R170). -/
theorem physical_add (base : Word16) (k : Nat) : physical (base + BitVec.ofNat 16 k) = (base.toNat + k) % 4096 := by
  simp only [physical_eq, BitVec.toNat_add, BitVec.toNat_ofNat]
  omega

theorem physical_lt (a : Word16) : physical a < Config.memSize := Nat.mod_lt _ (by decide)

theorem Memory.read_insert_same (a : Nat) (v : Byte) (m : Memory) (h : ∀ c ∈ m, c.1 ≠ a) :
    Memory.read (Memory.insert (a, v) m) a = v := by
  induction m with
  | nil => simp [Memory.insert, Memory.read]
  | cons d rest ih =>
    have hd : d.1 ≠ a := h d (by simp)
    have hr : ∀ c ∈ rest, c.1 ≠ a := fun c hc => h c (by simp [hc])
    simp only [Memory.insert]
    split
    · simp [Memory.read]
    · simp [Memory.read, hd, ih hr]

theorem Memory.read_insert_ne (a b : Nat) (v : Byte) (m : Memory) (h : b ≠ a) :
    Memory.read (Memory.insert (a, v) m) b = Memory.read m b := by
  induction m with
  | nil => simp [Memory.insert, Memory.read, Ne.symm h]
  | cons d rest ih =>
    simp only [Memory.insert]
    split
    · simp [Memory.read, Ne.symm h]
    · simp [Memory.read, ih]

theorem Memory.read_unlisted (m : Memory) (a : Nat) (h : ∀ c ∈ m, c.1 ≠ a) : Memory.read m a = Memory.fill a := by
  induction m with
  | nil => rfl
  | cons d rest ih =>
    have hd : d.1 ≠ a := h d (by simp)
    simp [Memory.read, hd, ih fun c hc => h c (by simp [hc])]

theorem Memory.read_filter_ne (m : Memory) (a b : Nat) (h : b ≠ a) :
    Memory.read (m.filter fun c => c.1 ≠ a) b = Memory.read m b := by
  induction m with
  | nil => rfl
  | cons d rest ih =>
    by_cases hd : d.1 = a
    · have hb : d.1 ≠ b := fun e => h (e.symm.trans hd)
      simp only [List.filter, hd, ne_eq, not_true, decide_false, Memory.read, Ne.symm h, if_false]
      simpa using ih
    · simp only [List.filter, hd, ne_eq, not_false_eq_true, decide_true, Memory.read]
      split
      · rfl
      · simpa using ih

/-- A read after a write to the same address gives the byte written. -/
@[simp] theorem Memory.read_write_same (m : Memory) (a : Nat) (v : Byte) :
    Memory.read (Memory.write m a v) a = v := by
  have hf : ∀ c ∈ m.filter (fun c => c.1 ≠ a), c.1 ≠ a := by
    intro c hc; simpa using (List.mem_filter.mp hc).2
  simp only [Memory.write]
  split
  next h => rw [Memory.read_unlisted _ _ hf, h]
  next => exact Memory.read_insert_same a v _ hf

/-- A write leaves every other address alone. -/
theorem Memory.read_write_ne (m : Memory) (a b : Nat) (v : Byte) (h : b ≠ a) :
    Memory.read (Memory.write m a v) b = Memory.read m b := by
  simp only [Memory.write]
  split
  · exact Memory.read_filter_ne m a b h
  · rw [Memory.read_insert_ne a b v _ h, Memory.read_filter_ne m a b h]

theorem Memory.mem_insert (c d : Host.Cell) (m : Memory) : d ∈ Memory.insert c m ↔ d = c ∨ d ∈ m := by
  induction m with
  | nil => simp [Memory.insert]
  | cons e rest ih =>
    simp only [Memory.insert]
    split
    · simp
    · simp only [List.mem_cons, ih]; tauto

theorem Memory.insert_rising (c : Host.Cell) (m : Memory) (hne : ∀ d ∈ m, d.1 ≠ c.1)
    (h : List.Pairwise (fun c d : Host.Cell => c.1 < d.1) m) :
    List.Pairwise (fun c d : Host.Cell => c.1 < d.1) (Memory.insert c m) := by
  induction m with
  | nil => simp [Memory.insert]
  | cons e rest ih =>
    obtain ⟨he, hr⟩ := List.pairwise_cons.mp h
    have hec : e.1 ≠ c.1 := hne e (by simp)
    simp only [Memory.insert]
    split
    next hlt =>
      refine List.pairwise_cons.mpr ⟨?_, h⟩
      intro d hd
      rcases List.mem_cons.mp hd with rfl | hd
      · exact hlt
      · exact lt_trans hlt (he d hd)
    next hlt =>
      refine List.pairwise_cons.mpr ⟨?_, ih (fun d hd => hne d (by simp [hd])) hr⟩
      intro d hd
      rcases (Memory.mem_insert c d rest).mp hd with rfl | hd
      · omega
      · exact he d hd

/-- A write keeps the canonical form. -/
theorem Memory.write_wf {m : Memory} (h : m.wf) {a : Nat} (ha : a < Config.memSize) (v : Byte) :
    (Memory.write m a v).wf := by
  have hp : List.Pairwise (fun c d : Host.Cell => c.1 < d.1) (m.filter fun c => c.1 ≠ a) := h.1.filter _
  have hne : ∀ c ∈ m.filter (fun c => c.1 ≠ a), c.1 ≠ a := by
    intro c hc; simpa using (List.mem_filter.mp hc).2
  have hin : ∀ c ∈ m.filter (fun c => c.1 ≠ a), c.1 < Config.memSize ∧ c.2 ≠ Memory.fill c.1 :=
    fun c hc => h.2 c (List.mem_filter.mp hc).1
  simp only [Memory.write]
  split
  · exact ⟨hp, hin⟩
  · refine ⟨Memory.insert_rising (a, v) _ hne hp, ?_⟩
    intro c hc
    rcases (Memory.mem_insert _ _ _).mp hc with rfl | hc
    · exact ⟨ha, by assumption⟩
    · exact hin c hc

/-- Writing a run of bytes keeps the canonical form. -/
theorem Memory.writeBytes_wf {m : Memory} (h : m.wf) (base : Word16) (bs : List Byte) :
    (Memory.writeBytes m base bs).wf := by
  induction bs generalizing m base with
  | nil => exact h
  | cons v rest ih => exact ih (Memory.write_wf h (physical_lt base) v) (base + 1)

/-- Reset memory lists nothing, so it is canonical. -/
theorem State.reset_mem_wf : State.reset.mem.wf := by simp [State.reset, Memory.wf]

theorem State.storeBytes_wf {s : State} (h : s.mem.wf) (base : Word16) (bs : List Byte) :
    (s.storeBytes base bs).mem.wf := Memory.writeBytes_wf h base bs

/-- The addresses `base + k` for `k` below 4096 are distinct after the reduction (43_index_memory.md R174, R175). -/
theorem physical_add_inj (base : Word16) {j k : Nat} (hj : j < Config.memSize) (hk : k < Config.memSize)
    (h : physical (base + BitVec.ofNat 16 j) = physical (base + BitVec.ofNat 16 k)) : j = k := by
  simp only [physical, Config.memSize, BitVec.toNat_add, BitVec.toNat_ofNat] at *
  omega

theorem add_ofNat_succ (base : Word16) (k : Nat) : base + BitVec.ofNat 16 (k + 1) = base + 1 + BitVec.ofNat 16 k := by
  rw [BitVec.add_assoc, ← BitVec.ofNat_add_ofNat, BitVec.add_comm (BitVec.ofNat 16 k)]
  rfl

/-- Outside the bytes written, memory reads as before. -/
theorem Memory.read_writeBytes_outside (m : Memory) (base : Word16) (bs : List Byte) (a : Nat)
    (h : ∀ k, k < bs.length → a ≠ physical (base + BitVec.ofNat 16 k)) :
    Memory.read (Memory.writeBytes m base bs) a = Memory.read m a := by
  induction bs generalizing m base with
  | nil => rfl
  | cons v rest ih =>
    have h0 : a ≠ physical base := by simpa using h 0 (by simp)
    rw [Memory.writeBytes, ih, Memory.read_write_ne _ _ _ _ h0]
    intro k hk
    have := h (k + 1) (by simpa using hk)
    rwa [add_ofNat_succ] at this

/-- The `k`th byte written stands at `base + k`. -/
theorem Memory.read_writeBytes_at (m : Memory) (base : Word16) (bs : List Byte) (hl : bs.length ≤ Config.memSize)
    (k : Nat) (hk : k < bs.length) :
    Memory.read (Memory.writeBytes m base bs) (physical (base + BitVec.ofNat 16 k)) = bs[k] := by
  induction bs generalizing m base k with
  | nil => simp at hk
  | cons v rest ih =>
    cases k with
    | zero =>
      have hout : ∀ j, j < rest.length → physical base ≠ physical (base + 1 + BitVec.ofNat 16 j) := by
        intro j hj e
        rw [← add_ofNat_succ] at e
        have := physical_add_inj base (j := 0) (k := j + 1) (by decide) (by simp at hl; omega) (by simpa using e)
        omega
      rw [show base + BitVec.ofNat 16 0 = base from BitVec.add_zero base, Memory.writeBytes, List.getElem_cons_zero]
      rw [Memory.read_writeBytes_outside _ _ _ _ hout, Memory.read_write_same]
    | succ k =>
      rw [add_ofNat_succ, Memory.writeBytes, ih _ _ (by simp at hl; omega) k (by simpa using hk)]
      simp

/-- The bytes a block read gives (20_memory.md R56). -/
@[simp] theorem State.readBytes_length (s : State) (base : Word16) (n : Nat) : (s.readBytes base n).length = n := by
  induction n generalizing base with
  | zero => rfl
  | succ n ih => simp [State.readBytes, ih]

theorem State.readBytes_get (s : State) (base : Word16) (n k : Nat) (hk : k < n) :
    (s.readBytes base n)[k]'(by simpa using hk) = s.readMem (base + BitVec.ofNat 16 k) := by
  induction n generalizing base k with
  | zero => omega
  | succ n ih =>
    cases k with
    | zero => simp [State.readBytes]
    | succ k => rw [add_ofNat_succ]; simpa [State.readBytes] using ih (base + 1) k (by omega)

/-- A store leaves every byte outside its run alone. -/
theorem State.readMem_storeBytes_outside (s : State) (base : Word16) (bs : List Byte) (a : Word16)
    (h : ∀ k, k < bs.length → physical a ≠ physical (base + BitVec.ofNat 16 k)) :
    (s.storeBytes base bs).readMem a = s.readMem a :=
  Memory.read_writeBytes_outside s.mem base bs (physical a) h

/-- A store puts its `k`th byte at `base + k`. -/
theorem State.readMem_storeBytes_at (s : State) (base : Word16) (bs : List Byte) (hl : bs.length ≤ Config.memSize)
    (k : Nat) (hk : k < bs.length) :
    (s.storeBytes base bs).readMem (base + BitVec.ofNat 16 k) = bs[k] :=
  Memory.read_writeBytes_at s.mem base bs hl k hk

end Sys2Proof.Machine
end

