-- ==== Sys2Proof/Laws/Operands.lean ====
section
/-! SUPPORT. What each operand form, each flag computation, the stack, the key choice and the scheduler's pieces can do, said once. -/

namespace Sys2Proof.Machine

/-! ## Registers -/

@[simp] theorem State.reg_setReg_same (s : State) (i : Reg) (v : Byte) : (s.setReg i v).reg i = v := by
  simp [State.reg, State.setReg]

theorem State.reg_setReg_ne (s : State) (i j : Reg) (v : Byte) (h : j ≠ i) : (s.setReg i v).reg j = s.reg j := by
  have : i.val ≠ j.val := fun e => h (Fin.ext e.symm)
  simp [State.reg, State.setReg, this]

theorem State.reg_setReg (s : State) (i j : Reg) (v : Byte) :
    (s.setReg i v).reg j = if j = i then v else s.reg j := by
  split
  next h => rw [h, State.reg_setReg_same]
  next h => exact State.reg_setReg_ne s i j v h

theorem State.reg_setFlag (s : State) (j : Reg) (v : Byte) :
    (s.setFlag v).reg j = if j = regF then v else s.reg j := State.reg_setReg s regF j v

theorem State.reg_storeKey (s : State) (x j : Reg) (k : KeyCode) :
    (s.storeKey x k).reg j = if j = x then BitVec.ofNat 8 k.val else s.reg j := State.reg_setReg s x j _

/-- A block load writes the registers its bytes reach and leaves the others alone. -/
theorem State.reg_loadBlock (s : State) (bs : List Byte) (j : Reg) :
    (s.loadBlock bs).reg j = bs.getD j.val (s.reg j) := by
  simp [State.reg, State.loadBlock]

theorem State.regsUpTo_length (s : State) (x : Reg) : (s.regsUpTo x).length = x.val + 1 := by
  simp [State.regsUpTo]

theorem State.regsUpTo_get (s : State) (x j : Reg) (h : j ≤ x) :
    (s.regsUpTo x)[j.val]'(by rw [State.regsUpTo_length]; exact Nat.lt_succ_of_le h) = s.reg j := by
  simp [State.regsUpTo, State.reg]

theorem State.indexed_advance (s : State) (k : Nat) : s.advance.indexed k = s.indexed k := rfl

@[simp] theorem State.indexed_zero (s : State) : s.indexed 0 = s.I := BitVec.add_zero _

theorem keyCode?_of_lt {v : Byte} (h : v.toNat < 16) : keyCode? v = some ⟨v.toNat, h⟩ := by simp [keyCode?, h]

theorem keyCode?_of_ge {v : Byte} (h : 15 < v.toNat) : keyCode? v = none := by
  simp only [keyCode?]; split
  · omega
  · rfl

/-! ## Flags and their order -/

theorem flagOf_cases (c : Bool) : flagOf c = 0 ∨ flagOf c = 1 := by cases c <;> simp [flagOf]

theorem flagOf_decide (p : Prop) [Decidable p] : flagOf (decide p) = if p then 1 else 0 := by
  by_cases h : p <;> simp [flagOf, h]

theorem carryFlag_eq (a b : Byte) : carryFlag a b = if 255 < a.toNat + b.toNat then 1 else 0 := flagOf_decide _

theorem aboveFlag_eq (a b : Byte) : aboveFlag a b = if b.toNat < a.toNat then 1 else 0 := flagOf_decide _

theorem aboveFlag_toNat (a b : Byte) : (aboveFlag a b).toNat = if b.toNat < a.toNat then 1 else 0 := by
  rw [aboveFlag_eq]; split <;> rfl

theorem lowBitFlag_toNat (a : Byte) : (lowBitFlag a).toNat = a.toNat % 2 := by
  rw [lowBitFlag, BitVec.toNat_and]; exact Nat.and_one_is_mod _

theorem highBitFlag_toNat (a : Byte) : (highBitFlag a).toNat = if 128 ≤ a.toNat then 128 else 0 := by
  revert a; decide

/-- A shift of VF itself loses the bit: 8xy6 and 8xyE with x = F leave 0 (42_alu.md R149, R151). -/
theorem lowBitFlag_shifted (a : Byte) : lowBitFlag a >>> 1 = 0 := by revert a; decide

theorem highBitFlag_shifted (a : Byte) : highBitFlag a <<< 1 = 0 := by revert a; decide

theorem glyphAddress_toNat (v : Byte) : (glyphAddress v).toNat = 5 * v.toNat := by
  revert v; decide

theorem decimalDigits_toNat (v : Byte) :
    (decimalDigits v).map BitVec.toNat = [v.toNat / 100, v.toNat / 10 % 10, v.toNat % 10] := by
  revert v; decide

/-- 8xy4's order: with x = F the result is the last write. -/
theorem State.reg_latchedFlagThenResult (s : State) (f g : Byte → Byte → Byte) (x y j : Reg) :
    (s.latchedFlagThenResult f g x y).reg j =
      if j = x then g (s.reg x) (s.reg y) else if j = regF then f (s.reg x) (s.reg y) else s.reg j := by
  simp only [State.latchedFlagThenResult, State.reg_setReg, State.reg_setFlag]

/-- The order of the other four: the result reads the flag where x = F or y = F. -/
theorem State.reg_flagThenResult (s : State) (f g : Byte → Byte → Byte) (x y j : Reg) :
    (s.flagThenResult f g x y).reg j =
      if j = x then
        g (if x = regF then f (s.reg x) (s.reg y) else s.reg x) (if y = regF then f (s.reg x) (s.reg y) else s.reg y)
      else if j = regF then f (s.reg x) (s.reg y) else s.reg j := by
  simp only [State.flagThenResult, State.reg_setReg, State.reg_setFlag]

/-- Both orders write registers only. -/
theorem State.latchedFlagThenResult_eq (s : State) (f g : Byte → Byte → Byte) (x y : Reg) :
    s.latchedFlagThenResult f g x y = { s with V := (s.latchedFlagThenResult f g x y).V } := rfl

theorem State.flagThenResult_eq (s : State) (f g : Byte → Byte → Byte) (x y : Reg) :
    s.flagThenResult f g x y = { s with V := (s.flagThenResult f g x y).V } := rfl

/-! ## The stack -/

theorem State.push_eq (s : State) (v : Word16) (h : s.SP.toNat < 16) :
    s.push v = some { s with stack := s.stack.set s.SP.toNat v, SP := s.SP + 1 } := by
  simp [State.push, h]

theorem State.popPC_eq (s : State) (h : (s.SP - 1).toNat < 16) :
    s.popPC = some { s with SP := s.SP - 1, PC := s.stack[(s.SP - 1).toNat] } := by
  simp only [State.popPC, Config.stackDepth, h, dite_true]

/-- What a push that answers did. -/
theorem State.push_some {s t : State} {v : Word16} (h : s.push v = some t) :
    ∃ hs : s.SP.toNat < 16, t = { s with stack := s.stack.set s.SP.toNat v, SP := s.SP + 1 } := by
  unfold State.push at h
  split at h
  next hs => exact ⟨hs, (Option.some.inj h).symm⟩
  next => cases h

theorem State.push_none_iff (s : State) (v : Word16) : s.push v = none ↔ 16 ≤ s.SP.toNat := by
  unfold State.push
  split
  next h => simp only [Config.stackDepth] at h; simp; omega
  next h => simp only [Config.stackDepth] at h; simp; omega

/-- What a pop that answers did. -/
theorem State.popPC_some {s t : State} (h : s.popPC = some t) :
    ∃ hs : (s.SP - 1).toNat < 16, t = { s with SP := s.SP - 1, PC := s.stack[(s.SP - 1).toNat] } := by
  unfold State.popPC at h
  split at h
  next hs => exact ⟨hs, (Option.some.inj h).symm⟩
  next => cases h

theorem State.popPC_none_iff (s : State) : s.popPC = none ↔ 16 ≤ (s.SP - 1).toNat := by
  unfold State.popPC
  split
  next h => simp only [Config.stackDepth] at h; simp only [reduceCtorEq, false_iff]; omega
  next h => simp only [Config.stackDepth] at h; simp only [true_iff]; omega

theorem pred_toNat_lt {sp : Byte} (h0 : sp ≠ 0) (h : sp.toNat ≤ 16) : (sp - 1).toNat < 16 := by
  have : sp.toNat ≠ 0 := fun e => h0 (BitVec.eq_of_toNat_eq (by simpa using e))
  rw [BitVec.toNat_sub]; simp; omega

/-! ## The choice of a key -/

theorem mem_pressedKeys (keys : KeySet) (k : KeyCode) : k ∈ pressedKeys keys ↔ isPressed keys k = true := by
  have : k ∈ keyCodes := by revert k; decide
  simp [pressedKeys, this]

/-- The free choice is a member of the key set. -/
theorem freeKey_pressed {keys : KeySet} {k : KeyCode} (h : freeKey keys = some k) : isPressed keys k = true := by
  rw [← mem_pressedKeys]
  simp only [freeKey] at h
  split at h
  · cases h
  · next l hl => cases h; simp [hl]
  · next a b rest hl => rw [hl]; exact List.mem_of_getElem? h

/-- The free choice has a value exactly when a key is down. -/
theorem freeKey_none_iff (keys : KeySet) : freeKey keys = none ↔ ∀ k, isPressed keys k = false := by
  have key : pressedKeys keys = [] ↔ ∀ k, isPressed keys k = false := by
    rw [List.eq_nil_iff_forall_not_mem]
    simp [mem_pressedKeys]
  rw [← key]
  simp only [freeKey]
  split
  · simp_all
  · simp_all
  · next a b rest hl =>
    simp only [hl, reduceCtorEq, iff_false]
    rw [List.getElem?_eq_none_iff]
    have := Nat.mod_lt (Config.keyIndex keys) (Nat.succ_pos (rest.length + 1))
    simp only [List.length_cons, not_le]
    omega

/-- `select_key` is a choice that the session lists, of a key that is down, or else the free choice. -/
theorem selectKey_cases (picks : List (KeySet × KeyCode)) (keys : KeySet) :
    (∃ k, (keys, k) ∈ picks ∧ isPressed keys k = true ∧ selectKey picks keys = some k) ∨
      ((∀ k, (keys, k) ∈ picks → isPressed keys k = false) ∧ selectKey picks keys = freeKey keys) := by
  unfold selectKey
  split
  · next p hp =>
    have hm := List.mem_of_find?_eq_some hp
    have hk := List.find?_some hp
    simp only [Bool.and_eq_true, decide_eq_true_eq] at hk
    exact .inl ⟨p.2, hk.1 ▸ hm, hk.2, rfl⟩
  · next hn =>
    refine .inr ⟨fun k hk => ?_, rfl⟩
    simpa using List.find?_eq_none.mp hn _ hk

/-- `select_key` gives a member of the key set. -/
theorem selectKey_pressed {picks : List (KeySet × KeyCode)} {keys : KeySet} {k : KeyCode}
    (h : selectKey picks keys = some k) : isPressed keys k = true := by
  rcases selectKey_cases picks keys with ⟨l, -, hl, e⟩ | ⟨-, e⟩
  · rw [e] at h; cases h; exact hl
  · exact freeKey_pressed (e ▸ h)

/-- `select_key` has a value exactly when a key is down. -/
theorem selectKey_none_iff (picks : List (KeySet × KeyCode)) (keys : KeySet) :
    selectKey picks keys = none ↔ ∀ k, isPressed keys k = false := by
  rcases selectKey_cases picks keys with ⟨l, -, hl, e⟩ | ⟨-, e⟩
  · rw [e]; exact ⟨fun h => absurd h (Option.some_ne_none l), fun h => absurd hl (by simp [h l])⟩
  · rw [e]; exact freeKey_none_iff keys

/-! ## The scheduler's pieces -/

/-- A poll either completes the Fx0A with a key that is down, or changes nothing (40_dispatch_cycle.md R107). -/
theorem State.poll_cases (s : State) (x : Reg) :
    (∃ k, isPressed s.keys k = true ∧ s.poll x = (s.storeKey x k).setRun .runnable) ∨
      ((∀ k, isPressed s.keys k = false) ∧ s.poll x = s) := by
  unfold State.poll
  cases h : selectKey s.cfg.keyPicks s.keys with
  | some k => exact .inl ⟨k, selectKey_pressed h, rfl⟩
  | none => exact .inr ⟨(selectKey_none_iff _ _).mp h, rfl⟩

/-- A tick start either cancels or begins the instruction phase (60_exceptions.md R250). -/
theorem State.startTick_cases (s : State) :
    (s.nextInput.cancel = true ∧ s.startTick = s.takeInput.cancel) ∨
      (s.nextInput.cancel = false ∧ s.startTick = s.takeInput.beginSlots s.nextInput.keys) := by
  unfold State.startTick
  cases h : s.nextInput.cancel
  · exact .inr ⟨rfl, rfl⟩
  · exact .inl ⟨rfl, rfl⟩

/-- A timer counts down by one and stops at zero (R253). -/
theorem countDown_toNat (t : Byte) : (countDown t).toNat = t.toNat - 1 := by
  unfold countDown
  split
  next h => subst h; rfl
  next h =>
    have : t.toNat ≠ 0 := fun e => h (BitVec.eq_of_toNat_eq (by simpa using e))
    rw [BitVec.toNat_sub]; simp; omega

theorem onNext_next {f : State → State} {o : Result} {t : State} (h : onNext f o = .next t) :
    ∃ u, o = .next u ∧ t = f u := by
  cases o with
  | next u => exact ⟨u, rfl, by simpa [onNext] using h.symm⟩
  | fault r => cases h
  | refused r => cases h

end Sys2Proof.Machine
end

