-- ==== Sys2Proof/Laws/Display.lean ====
section
/-! SUPPORT. The laws of the pixel buffer: what one toggle and a run of toggles do (spec/44_display.md R192, R194, R198). -/

namespace Sys2Proof.Machine

@[simp] theorem pixelAt_clear (p : Pixel) : pixelAt FrameBuffer.clear p = false := by
  simp [pixelAt, FrameBuffer.clear]

/-- A toggle flips its pixel and no other. -/
theorem pixelAt_togglePixel (fb : FrameBuffer) (p q : Pixel) :
    pixelAt (togglePixel fb p).1 q = if q = p then !pixelAt fb p else pixelAt fb q := by
  obtain ⟨pr, pc⟩ := p
  obtain ⟨qr, qc⟩ := q
  simp only [pixelAt, togglePixel, Vector.getElem_set, Prod.mk.injEq]
  by_cases hr : qr = pr
  · subst hr
    by_cases hc : qc = pc
    · subst hc; simp
    · have : pc.val ≠ qc.val := fun e => hc (Fin.ext e.symm)
      simp [hc, this]
  · have : pr.val ≠ qr.val := fun e => hr (Fin.ext e.symm)
    simp [hr, this]

/-- A toggle reports whether its pixel was set. -/
theorem togglePixel_collision (fb : FrameBuffer) (p : Pixel) : (togglePixel fb p).2 = pixelAt fb p := rfl

/-- Toggling distinct pixels flips exactly those. -/
theorem pixelAt_toggleAll (l : List Pixel) (hl : l.Nodup) (d : FrameBuffer × Bool) (q : Pixel) :
    pixelAt (toggleAll l d).1 q = (pixelAt d.1 q ^^ decide (q ∈ l)) := by
  induction l generalizing d with
  | nil => simp [toggleAll]
  | cons p rest ih =>
    obtain ⟨hp, hr⟩ := List.nodup_cons.mp hl
    rw [toggleAll, ih hr]
    simp only [pixelAt_togglePixel, List.mem_cons]
    by_cases hq : q = p
    · subst hq; simp [hp]
    · simp [hq]

/-- Toggling distinct pixels collides exactly when one of them was set. -/
theorem toggleAll_collision (l : List Pixel) (hl : l.Nodup) (d : FrameBuffer × Bool) :
    (toggleAll l d).2 = (d.2 || l.any fun p => pixelAt d.1 p) := by
  induction l generalizing d with
  | nil => simp [toggleAll]
  | cons p rest ih =>
    obtain ⟨hp, hr⟩ := List.nodup_cons.mp hl
    rw [toggleAll, ih hr]
    have key : ∀ q ∈ rest, pixelAt (togglePixel d.1 p).1 q = pixelAt d.1 q := by
      intro q hq
      have hne : q ≠ p := fun e => hp (e ▸ hq)
      simp [pixelAt_togglePixel, hne]
    have : (rest.any fun q => pixelAt (togglePixel d.1 p).1 q) = rest.any fun q => pixelAt d.1 q := by
      rw [Bool.eq_iff_iff, List.any_eq_true, List.any_eq_true]
      exact exists_congr fun q => and_congr_right fun hq => by rw [key q hq]
    simp only [this, togglePixel_collision, List.any_cons, Bool.or_assoc]

/-- Where the set bits of one sprite row fall (R193): on the mapped row, at the mapped column of each set bit. -/
theorem mem_rowTargets (wrapY : Bool) (row col0 : Nat) (b : Byte) (p : Pixel) :
    p ∈ rowTargets wrapY row col0 b ↔
      (if wrapY then p.1.val = row % 32 else p.1.val = row) ∧
        ∃ c, c < 8 ∧ b.getLsbD (7 - c) = true ∧ p.2.val = (col0 + c) % 64 := by
  obtain ⟨pr, pc⟩ := p
  have key : ∀ r : Fin 32,
      ((pr, pc) ∈ [0, 1, 2, 3, 4, 5, 6, 7].filterMap
          (fun c => if b.getLsbD (7 - c) then some (r, mapCol (col0 + c)) else none)) ↔
        pr = r ∧ ∃ c, c < 8 ∧ b.getLsbD (7 - c) = true ∧ pc.val = (col0 + c) % 64 := by
    intro r
    rw [List.mem_filterMap]
    constructor
    · rintro ⟨c, hc, h⟩
      have hc8 : c < 8 := by revert hc; simp; omega
      split at h
      · cases h; exact ⟨rfl, c, hc8, by assumption, by simp [mapCol]⟩
      · cases h
    · rintro ⟨rfl, c, hc, hb, hcol⟩
      have hm : mapCol (col0 + c) = pc := Fin.ext (by simp [mapCol, hcol])
      exact ⟨c, by simp; omega, by simp [hb, hm]⟩
  unfold rowTargets mapRow
  cases wrapY
  · by_cases h : row < 32
    · simp only [Bool.false_eq_true, if_false, h, dite_true]; rw [key]; simp [Fin.ext_iff]
    · simp only [Bool.false_eq_true, if_false, h, dite_false]; simp; intro h'; omega
  · simp only [if_true]; rw [key]; simp [Fin.ext_iff]

/-- Where the set bits of a sprite fall: row `r` of the sprite on the row `row0 + r` (R194). -/
theorem mem_spriteTargets (wrapY : Bool) (row0 col0 : Nat) (bs : List Byte) (p : Pixel) :
    p ∈ spriteTargets wrapY row0 col0 bs ↔
      ∃ r, ∃ h : r < bs.length, p ∈ rowTargets wrapY (row0 + r) col0 bs[r] := by
  induction bs generalizing row0 with
  | nil => simp [spriteTargets]
  | cons b rest ih =>
    simp only [spriteTargets, List.mem_append, ih]
    constructor
    · rintro (h | ⟨r, hr, h⟩)
      · exact ⟨0, by simp, by simpa using h⟩
      · exact ⟨r + 1, by simpa using hr, by simpa [Nat.add_assoc, Nat.add_comm 1] using h⟩
    · rintro ⟨r, hr, h⟩
      cases r with
      | zero => left; simpa using h
      | succ r => right; exact ⟨r, by simpa using hr, by simpa [Nat.add_assoc, Nat.add_comm 1] using h⟩

theorem rowTargets_nodup (wrapY : Bool) (row col0 : Nat) (b : Byte) : (rowTargets wrapY row col0 b).Nodup := by
  unfold rowTargets
  split
  · simp
  · refine List.Pairwise.filterMap _ (R := fun c d : Nat => c < d ∧ d < 8) ?_ (by decide)
    intro c d hcd p hp q hq e
    subst e
    simp only [Option.ite_none_right_eq_some, Option.some.injEq] at hp hq
    have h := congrArg (fun z : Pixel => z.2.val) (hp.2.trans hq.2.symm)
    simp only [mapCol, Fin.val_ofNat] at h
    omega

/-- Within one draw no two set bits fall on one pixel (R198). -/
theorem spriteTargets_nodup (wrapY : Bool) (row0 col0 : Nat) (bs : List Byte) (h : bs.length ≤ 15) :
    (spriteTargets wrapY row0 col0 bs).Nodup := by
  induction bs generalizing row0 with
  | nil => simp [spriteTargets]
  | cons b rest ih =>
    simp only [List.length_cons] at h
    refine List.nodup_append'.mpr ⟨rowTargets_nodup _ _ _ _, ih _ (by omega), ?_⟩
    intro p hp hq
    obtain ⟨r, hr, hq⟩ := (mem_spriteTargets _ _ _ _ _).mp hq
    rw [mem_rowTargets] at hp hq
    cases wrapY <;> simp only [Bool.false_eq_true, if_false, if_true] at hp hq <;> omega

end Sys2Proof.Machine
end

