-- ==== Sys2Proof/Laws/PerInstr.lean ====
section
/-! SUPPORT. Statements made of each instruction, one lemma per constructor of Instr. -/

namespace Sys2Proof.Laws.FixedDigits

/-- An instruction's word matches its own row of the opcode table (spec/30_encoding.md R74). -/
def Statement (i : Instr) : Prop := encode i &&& i.row.mask = i.row.value

theorem cls : Statement .cls := rfl
theorem ret : Statement .ret := rfl
theorem jp (nnn : Addr12) : Statement (.jp nnn) := mask_address _ nnn
theorem call (nnn : Addr12) : Statement (.call nnn) := mask_address _ nnn
theorem seImm (x : Reg) (kk : Byte) : Statement (.seImm x kk) := mask_regByte _ x kk
theorem sneImm (x : Reg) (kk : Byte) : Statement (.sneImm x kk) := mask_regByte _ x kk
theorem seReg (x y : Reg) : Statement (.seReg x y) := mask_regRegSelector _ _ x y
theorem ldImm (x : Reg) (kk : Byte) : Statement (.ldImm x kk) := mask_regByte _ x kk
theorem addImm (x : Reg) (kk : Byte) : Statement (.addImm x kk) := mask_regByte _ x kk
theorem ldReg (x y : Reg) : Statement (.ldReg x y) := mask_regRegSelector _ _ x y
theorem orReg (x y : Reg) : Statement (.orReg x y) := mask_regRegSelector _ _ x y
theorem andReg (x y : Reg) : Statement (.andReg x y) := mask_regRegSelector _ _ x y
theorem xorReg (x y : Reg) : Statement (.xorReg x y) := mask_regRegSelector _ _ x y
theorem addReg (x y : Reg) : Statement (.addReg x y) := mask_regRegSelector _ _ x y
theorem sub (x y : Reg) : Statement (.sub x y) := mask_regRegSelector _ _ x y
theorem shr (x y : Reg) : Statement (.shr x y) := mask_regRegSelector _ _ x y
theorem subn (x y : Reg) : Statement (.subn x y) := mask_regRegSelector _ _ x y
theorem shl (x y : Reg) : Statement (.shl x y) := mask_regRegSelector _ _ x y
theorem sneReg (x y : Reg) : Statement (.sneReg x y) := mask_regRegSelector _ _ x y
theorem ldI (nnn : Addr12) : Statement (.ldI nnn) := mask_address _ nnn
theorem jpV0 (nnn : Addr12) : Statement (.jpV0 nnn) := mask_address _ nnn
theorem rnd (x : Reg) (kk : Byte) : Statement (.rnd x kk) := mask_regByte _ x kk
theorem drw (x y : Reg) (n : Height) : Statement (.drw x y n) := mask_regReg _ (nibble n) x y
theorem skp (x : Reg) : Statement (.skp x) := mask_regSelector _ x _
theorem sknp (x : Reg) : Statement (.sknp x) := mask_regSelector _ x _
theorem ldVxDt (x : Reg) : Statement (.ldVxDt x) := mask_regSelector _ x _
theorem ldVxK (x : Reg) : Statement (.ldVxK x) := mask_regSelector _ x _
theorem ldDtVx (x : Reg) : Statement (.ldDtVx x) := mask_regSelector _ x _
theorem ldStVx (x : Reg) : Statement (.ldStVx x) := mask_regSelector _ x _
theorem addI (x : Reg) : Statement (.addI x) := mask_regSelector _ x _
theorem ldF (x : Reg) : Statement (.ldF x) := mask_regSelector _ x _
theorem ldB (x : Reg) : Statement (.ldB x) := mask_regSelector _ x _
theorem storeRegs (x : Reg) : Statement (.storeRegs x) := mask_regSelector _ x _
theorem loadRegs (x : Reg) : Statement (.loadRegs x) := mask_regSelector _ x _

end Sys2Proof.Laws.FixedDigits
end

