-- ==== Sys2Proof/Laws/Step.lean ====
section
/-! SUPPORT. What a slot and a step can do, said once (spec/40_dispatch_cycle.md R100, spec/60_exceptions.md R250). -/

namespace Sys2Proof.Machine

/-- What a slot can do, by the run state. -/
theorem State.slot_cases {s : State} {o : Result} (h : s.slot = o) :
    (s.run = .runnable ∧ ∃ i, decode s.fetch = .ok i ∧ exec i s = o) ∨
      (s.run = .runnable ∧ (∃ e, decode s.fetch = .error e) ∧ o = .next (s.raiseFatal .unknownInstruction s.fetch)) ∨
      (∃ x, s.run = .blocked x ∧ o = .next (s.poll x)) ∨ ((∃ r, s.run = .halted r) ∧ o = .next s) := by
  unfold State.slot at h
  cases hr : s.run with
  | runnable =>
    rw [hr] at h
    simp only [State.dispatch] at h
    cases hd : decode s.fetch with
    | ok i => rw [hd] at h; exact .inl ⟨rfl, i, rfl, h⟩
    | error e => rw [hd] at h; exact .inr (.inl ⟨rfl, ⟨e, rfl⟩, h.symm⟩)
  | blocked x => rw [hr] at h; exact .inr (.inr (.inl ⟨x, rfl, h.symm⟩))
  | halted r => rw [hr] at h; exact .inr (.inr (.inr ⟨⟨r, rfl⟩, h.symm⟩))

/-- What a step that answers a next state did. -/
theorem step_cases {s t : State} (h : step s = .next t) :
    (s.run.isHalted = true ∧ t = s) ∨
      (s.run.isHalted = false ∧ s.phase = .between ∧ t = s.startTick) ∨
      (s.run.isHalted = false ∧ s.phase = .slots 0 ∧ t = s.endTick) ∨
      (s.run.isHalted = false ∧
        ∃ left u, s.phase = .slots (left + 1) ∧ s.slot = .next u ∧ t = u.afterSlot left) := by
  unfold step State.schedule at h
  cases hh : s.run.isHalted with
  | true => rw [hh] at h; exact .inl ⟨rfl, by simpa using h.symm⟩
  | false =>
    rw [hh] at h
    cases hp : s.phase with
    | between => rw [hp] at h; exact .inr (.inl ⟨rfl, rfl, by simpa using h.symm⟩)
    | slots n =>
      rw [hp] at h
      cases n with
      | zero => exact .inr (.inr (.inl ⟨rfl, rfl, by simpa using h.symm⟩))
      | succ left =>
        obtain ⟨u, hu, rfl⟩ := onNext_next h
        exact .inr (.inr (.inr ⟨rfl, left, u, rfl, hu, rfl⟩))

/-- A step in the instruction phase with a slot left is that slot, and then the slot's end. -/
theorem step_slot {s : State} {left : Nat} (hr : s.run.isHalted = false) (hp : s.phase = .slots (left + 1)) :
    step s = onNext (State.afterSlot left) s.slot := by
  simp only [step, State.schedule, hr, hp]

end Sys2Proof.Machine
end

