-- ==== Sys2Proof/Tests/Slice0.lean ====
section
/-! SUPPORT. Tests whose expected results are the spec's own (spec/95_test_vectors.md, with the rule of each), and a witness for the hypotheses of every obligation that has some. -/

namespace Sys2Proof.Tests

open Sys2Proof.Machine

/-! ## Small states -/

/-- The reset state in a session of two slots per tick. -/
def small : State := { State.reset with cfg := { speed := 2, wrapY := false, keyPicks := [] } }

/-- `small` with some registers set. -/
def withRegs (l : List (Reg × Byte)) : State := l.foldl (fun s p => s.setReg p.1 p.2) small

/-- A set of keys. -/
def keysOf (l : List KeyCode) : KeySet := Vector.ofFn fun k => l.contains k

/-- A view of the next state; none where there is none. -/
def view {α : Type} (f : State → α) : Result → Option α
  | .next t => some (f t)
  | .fault _ => none
  | .refused _ => none

/-- One step of the word `w`, placed at PC. -/
def run1 (w : Word16) (s : State) : Result := step (s.withFetchWord 16 w.toNat)

/-- The pixels of some places of the buffer. -/
def pixels (l : List Pixel) (s : State) : List Bool := l.map (pixelAt s.fb)

/-! ## Well-formedness: what no field holds is refused (R71, R72) -/

theorem test_wf_register_refused : regOk 16 = false ∧ reg? 16 = none ∧ reg? 15 = some 15 := by decide
theorem test_wf_height_refused : heightOk 16 = false ∧ heightOk 15 = true := by decide
theorem test_wf_byte_refused : byteOk 256 = false ∧ byte? 256 = none ∧ byte? 255 = some 255 := by decide
theorem test_wf_address_refused : addrOk 4096 = false ∧ addr? 4096 = none ∧ addr? 4095 = some 0xFFF := by decide

/-! ## Decoding: words written out from the patterns of R73, digit by digit -/

theorem test_decode_control :
    decode 0b0000000011100000 = .ok .cls ∧ decode 0b0000000011101110 = .ok .ret ∧
      decode 0b0001001000110100 = .ok (.jp 0x234) ∧ decode 0b0010001100000000 = .ok (.call 0x300) ∧
      decode 0b0011001100010000 = .ok (.seImm 3 0x10) ∧ decode 0b0100001100010000 = .ok (.sneImm 3 0x10) ∧
      decode 0b0101000100100000 = .ok (.seReg 1 2) ∧ decode 0b1001000100100000 = .ok (.sneReg 1 2) ∧
      decode 0b1011001100000000 = .ok (.jpV0 0x300) := ⟨rfl, rfl, rfl, rfl, rfl, rfl, rfl, rfl, rfl⟩

theorem test_decode_alu :
    decode 0b0110000000001010 = .ok (.ldImm 0 0x0A) ∧ decode 0b0111001000000010 = .ok (.addImm 2 0x02) ∧
      decode 0b1000000001010000 = .ok (.ldReg 0 5) ∧ decode 0b1000111100010001 = .ok (.orReg 15 1) ∧
      decode 0b1000000000010010 = .ok (.andReg 0 1) ∧ decode 0b1000000100010011 = .ok (.xorReg 1 1) ∧
      decode 0b1000000011110100 = .ok (.addReg 0 15) ∧ decode 0b1000111100010101 = .ok (.sub 15 1) ∧
      decode 0b1000000000010110 = .ok (.shr 0 1) ∧ decode 0b1000000011110111 = .ok (.subn 0 15) ∧
      decode 0b1000000000101110 = .ok (.shl 0 2) ∧ decode 0b1100001100001111 = .ok (.rnd 3 0x0F) :=
  ⟨rfl, rfl, rfl, rfl, rfl, rfl, rfl, rfl, rfl, rfl, rfl, rfl⟩

theorem test_decode_index_and_display :
    decode 0b1010001011110000 = .ok (.ldI 0x2F0) ∧ decode 0b1111001000011110 = .ok (.addI 2) ∧
      decode 0b1111010000101001 = .ok (.ldF 4) ∧ decode 0b1111000000110011 = .ok (.ldB 0) ∧
      decode 0b1111001001010101 = .ok (.storeRegs 2) ∧ decode 0b1111000101100101 = .ok (.loadRegs 1) ∧
      decode 0b1101000100100101 = .ok (.drw 1 2 5) := ⟨rfl, rfl, rfl, rfl, rfl, rfl, rfl⟩

theorem test_decode_keys_and_timers :
    decode 0b1110000110011110 = .ok (.skp 1) ∧ decode 0b1110000010100001 = .ok (.sknp 0) ∧
      decode 0b1111111100000111 = .ok (.ldVxDt 15) ∧ decode 0b1111001100001010 = .ok (.ldVxK 3) ∧
      decode 0b1111000100010101 = .ok (.ldDtVx 1) ∧ decode 0b1111001000011000 = .ok (.ldStVx 2) :=
  ⟨rfl, rfl, rfl, rfl, rfl, rfl⟩

/-- The illegal words of 95_test_vectors.md section 2.1. -/
theorem test_decode_refuses_illegal_words :
    ∀ w ∈ [0x0000, 0x01E0, 0x5121, 0x9FF1, 0x8008, 0xE000, 0xF0FF], decode w = .error (.unknownInstruction w) := by
  simp only [List.forall_mem_cons, List.not_mem_nil, false_implies, implies_true, and_true]
  exact ⟨rfl, rfl, rfl, rfl, rfl, rfl, rfl⟩

theorem test_encode_writes_the_pattern :
    encode (.drw 1 2 5) = 0xD125 ∧ encode (.call 0x300) = 0x2300 ∧ encode (.sneImm 3 0x10) = 0x4310 ∧
      encode (.subn 0 15) = 0x80F7 ∧ encode (.loadRegs 15) = 0xFF65 := by decide

theorem test_decodeBytes_leaves_the_rest :
    decodeBytes [0x12, 0x34, 0x56] = .ok (.jp 0x234, [0x56]) ∧ decodeBytes [0x12] = .error .tooShort := ⟨rfl, rfl⟩

/-! ## Fetch and illegal words (95_test_vectors.md section 2.1) -/

theorem test_step_unknown_halts :
    view (fun t => (t.run, t.PC)) (run1 0x5121 (withRegs [(1, 1), (2, 1)])) =
      some (.halted ⟨.unknownInstruction, 0x5121, 0x200, 0⟩, 0x200) := by decide

theorem test_step_odd_pc :
    view (fun t => (t.reg 1, t.PC)) (run1 0x6177 { small with PC := 0x301 }) = some (0x77, 0x303) := by decide

theorem test_step_fetch_wraps :
    view (fun t => (t.reg 1, t.PC)) (run1 0x6177 { small with PC := 0xFFF }) = some (0x77, 0x1001) := by decide

/-! ## Control flow (section 2.2) -/

theorem test_jp : view (·.PC) (run1 0x1234 small) = some 0x234 := by decide

theorem test_call :
    view (fun t => (t.stack[0], t.SP, t.PC)) (run1 0x2300 small) = some (0x202, 1, 0x300) := by decide

theorem test_call_overflows :
    view (fun t => (t.run, t.SP, t.PC, t.stack[15])) (run1 0x2300 { small with SP := 16 }) =
      some (.halted ⟨.stackOverflow, 0x2300, 0x200, 16⟩, 16, 0x200, 0) := by decide

theorem test_ret :
    view (fun t => (t.SP, t.PC)) (run1 0x00EE { small with SP := 1, stack := small.stack.set 0 0xABC }) =
      some (0, 0xABC) := by decide

theorem test_ret_underflows :
    view (fun t => (t.run, t.PC)) (run1 0x00EE small) = some (.halted ⟨.stackUnderflow, 0x00EE, 0x200, 0⟩, 0x200) := by
  decide

theorem test_seImm_skips : view (·.PC) (run1 0x3310 (withRegs [(3, 0x10)])) = some 0x204 := by decide
theorem test_seImm_goes_on : view (·.PC) (run1 0x3310 (withRegs [(3, 0x11)])) = some 0x202 := by decide
theorem test_sneImm_skips : view (·.PC) (run1 0x4310 (withRegs [(3, 0x11)])) = some 0x204 := by decide
theorem test_seReg_skips : view (·.PC) (run1 0x5120 (withRegs [(1, 7), (2, 7)])) = some 0x204 := by decide
theorem test_sneReg_skips : view (·.PC) (run1 0x9120 (withRegs [(1, 7), (2, 8)])) = some 0x204 := by decide
theorem test_sneReg_same_register : view (·.PC) (run1 0x9330 (withRegs [(3, 9)])) = some 0x202 := by decide
theorem test_jpV0 : view (·.PC) (run1 0xB300 (withRegs [(0, 0x10), (3, 0x77)])) = some 0x310 := by decide
theorem test_jpV0_above_memory : view (·.PC) (run1 0xBFFF (withRegs [(0, 0xFF)])) = some 0x10FE := by decide

/-! ## Registers, arithmetic, logic, shifts, random (section 2.3); the views are Vx, then VF -/

theorem test_ldImm : view (·.reg 0) (run1 0x600A small) = some 0x0A := by decide

theorem test_addImm_no_carry :
    view (fun t => (t.reg 2, t.reg 15)) (run1 0x7202 (withRegs [(2, 0xFF)])) = some (0x01, 0x00) := by decide

theorem test_addImm_to_VF : view (·.reg 15) (run1 0x7FFF (withRegs [(15, 0x01)])) = some 0x00 := by decide
theorem test_ldReg : view (·.reg 0) (run1 0x8050 (withRegs [(5, 0x33)])) = some 0x33 := by decide
theorem test_orReg : view (·.reg 0) (run1 0x8011 (withRegs [(0, 0x0F), (1, 0xF0)])) = some 0xFF := by decide
theorem test_orReg_to_VF : view (·.reg 15) (run1 0x8F11 (withRegs [(15, 0x10), (1, 0x01)])) = some 0x11 := by decide
theorem test_andReg : view (·.reg 0) (run1 0x8012 (withRegs [(0, 0x3C), (1, 0x0F)])) = some 0x0C := by decide
theorem test_xorReg : view (·.reg 0) (run1 0x8013 (withRegs [(0, 0xFF), (1, 0x0F)])) = some 0xF0 := by decide

theorem test_addReg_carry :
    view (fun t => (t.reg 0, t.reg 15)) (run1 0x80F4 (withRegs [(0, 0x10), (15, 0xF5)])) = some (0x05, 1) := by decide

theorem test_addReg_to_VF : view (·.reg 15) (run1 0x8F14 (withRegs [(15, 0xFF), (1, 0x02)])) = some 0x01 := by decide

theorem test_sub_equal_is_no_borrow_flag :
    view (fun t => (t.reg 0, t.reg 15)) (run1 0x8015 (withRegs [(0, 5), (1, 5), (15, 7)])) = some (0, 0) := by decide

theorem test_sub_to_VF : view (·.reg 15) (run1 0x8F15 (withRegs [(15, 0x05), (1, 0x03)])) = some 0xFE := by decide

theorem test_shr_ignores_y :
    view (fun t => (t.reg 0, t.reg 15, t.reg 1)) (run1 0x8016 (withRegs [(0, 0x04), (1, 0xFF)])) =
      some (0x02, 0, 0xFF) := by decide

theorem test_shr_flag :
    view (fun t => (t.reg 0, t.reg 15)) (run1 0x8006 (withRegs [(0, 0xFF)])) = some (0x7F, 1) := by decide

theorem test_subn :
    view (fun t => (t.reg 0, t.reg 15)) (run1 0x8017 (withRegs [(0, 0x03), (1, 0x0A)])) = some (0x07, 1) := by decide

theorem test_subn_from_VF :
    view (fun t => (t.reg 0, t.reg 15)) (run1 0x80F7 (withRegs [(0, 0x02), (15, 0x05)])) = some (0xFF, 1) := by decide

theorem test_shl_raw_flag :
    view (fun t => (t.reg 0, t.reg 15)) (run1 0x800E (withRegs [(0, 0xC1)])) = some (0x82, 0x80) := by decide

theorem test_shl_of_VF : view (·.reg 15) (run1 0x8F0E (withRegs [(15, 0x81)])) = some 0 := by decide

theorem test_rnd :
    view (fun t => (t.reg 3, t.env.draws)) (run1 0xC30F { small with env.draws := [0xA5, 0x11] }) =
      some (0x05, [0x11]) := by decide

/-! ## Index register and memory (section 2.4) -/

theorem test_ldI : view (·.I) (run1 0xA2F0 small) = some 0x02F0 := by decide
theorem test_addI_wraps : view (·.I) (run1 0xF01E { withRegs [(0, 1)] with I := 0xFFFF }) = some 0 := by decide

theorem test_addI_no_flag :
    view (fun t => (t.I, t.reg 15)) (run1 0xF01E { withRegs [(0, 2), (15, 9)] with I := 0x0FFF }) = some (0x1001, 9) := by
  decide

theorem test_ldF : view (·.I) (run1 0xF429 (withRegs [(4, 0x0A)])) = some 0x0032 := by decide
theorem test_ldF_not_masked : view (·.I) (run1 0xF029 (withRegs [(0, 0xFF)])) = some 0x04FB := by decide

theorem test_ldB :
    view (fun t => ((t.readMem 0x300, t.readMem 0x301, t.readMem 0x302), t.I))
        (run1 0xF033 { withRegs [(0, 0x9C)] with I := 0x300 }) = some ((1, 5, 6), 0x300) := by decide

theorem test_ldB_wraps :
    view (fun t => (t.readMem 0xFFF, t.readMem 0x000, t.readMem 0x001))
        (run1 0xF033 { withRegs [(0, 0xFF)] with I := 0xFFF }) = some (2, 5, 5) := by decide

theorem test_storeRegs :
    view (fun t => ((t.readMem 0x400, t.readMem 0x401, t.readMem 0x402, t.readMem 0x403), t.I))
        (run1 0xF255 { withRegs [(0, 1), (1, 2), (2, 3), (3, 4)] with I := 0x400 }) = some ((1, 2, 3, 0), 0x400) := by
  decide

theorem test_loadRegs :
    view (fun t => (t.reg 0, t.reg 1, t.reg 2, t.I))
        (run1 0xF165 ({ withRegs [(2, 0x55)] with I := 0x400 }.storeBytes 0x400 [7, 8, 9])) =
      some (7, 8, 0x55, 0x400) := by decide

theorem test_loadRegs_font :
    view (fun t => t.V.toList) (run1 0xFF65 small) =
      some [0xF0, 0x90, 0x90, 0x90, 0xF0, 0x20, 0x60, 0x20, 0x20, 0x70, 0xF0, 0x10, 0xF0, 0x80, 0xF0, 0xF0] := by decide

/-! ## Display (section 2.5) -/

theorem test_cls :
    view (pixels [(3, 9)]) (run1 0x00E0 { small with fb := (togglePixel FrameBuffer.clear (3, 9)).1 }) = some [false] := by
  decide

/-- Glyph 0's second row is 0x90, its fifth the last. -/
theorem test_drw_glyph :
    view (fun t => (pixels [(0, 3), (0, 4), (1, 0), (1, 1), (1, 3), (4, 3), (5, 0)] t, t.reg 15))
        (run1 0xD015 (withRegs [(15, 1)])) = some ([true, false, true, false, true, true, false], 0) := by decide

theorem test_drw_VF_is_both_coordinates :
    view (fun t => (pixels [(2, 2), (2, 3), (0, 0)] t, t.reg 15))
        (run1 0xDFF1 ({ withRegs [(15, 2)] with I := 0x300 }.storeBytes 0x300 [0x80])) =
      some ([true, false, false], 0) := by decide

/-! ## Keys and timers (section 2.6) -/

theorem test_skp_down :
    view (·.PC) (run1 0xE19E { withRegs [(1, 5)] with keys := keysOf [5] }) = some 0x204 := by decide

theorem test_skp_code_too_large :
    view (fun t => (t.run, t.PC)) (run1 0xE09E { withRegs [(0, 16)] with keys := keysOf [0] }) =
      some (.halted ⟨.keyCodeOutOfRange, 0xE09E, 0x200, 0⟩, 0x200) := by decide

theorem test_sknp_down :
    view (·.PC) (run1 0xE0A1 { withRegs [(0, 3)] with keys := keysOf [3] }) = some 0x202 := by decide

theorem test_sknp_up : view (·.PC) (run1 0xE1A1 (withRegs [(1, 5)])) = some 0x204 := by decide
theorem test_ldVxDt : view (·.reg 15) (run1 0xFF07 { small with DT := 0x42 }) = some 0x42 := by decide

theorem test_ldVxK_key_down :
    view (fun t => (t.reg 3, t.PC, t.run)) (run1 0xF30A { small with keys := keysOf [9] }) =
      some (9, 0x202, .runnable) := by decide

theorem test_ldVxK_blocks :
    view (fun t => (t.PC, t.run, t.phase)) (run1 0xF20A small) = some (0x202, .blocked 2, .slots 0) := by decide

theorem test_ldDtVx : view (fun t => (t.DT, t.ST)) (run1 0xF015 (withRegs [(0, 5)])) = some (5, 0) := by decide
theorem test_ldStVx : view (fun t => (t.DT, t.ST)) (run1 0xF018 (withRegs [(0, 3)])) = some (0, 3) := by decide

/-! ## Ticks and memory -/

/-- 40_dispatch_cycle.md R107; section 2.6. -/
theorem test_poll_resumes :
    view (fun t => (t.reg 2, t.run, t.phase))
        (step { small with run := .blocked 2, phase := .slots 2, keys := keysOf [7] }) =
      some (7, .runnable, .slots 1) := by decide

/-- Section 2.6, "poll in Blocked(2)" with K = {1, 7}: the session's select_key decides. -/
theorem test_poll_takes_the_sessions_choice :
    ∀ k ∈ [(1 : KeyCode), 7], view (fun t => (t.reg 2).toNat)
      (step { small with run := .blocked 2, phase := .slots 2, keys := keysOf [1, 7], cfg.keyPicks := [(keysOf [1, 7], k)] }) =
        some k.val := by decide

/-- 60_exceptions.md R253, R254. -/
theorem test_endTick :
    view (fun t => (t.DT, t.ST, t.tone, t.phase)) (step { small with DT := 0, ST := 2, phase := .slots 0 }) =
      some (0, 1, true, .between) := by decide

/-- R237; section 2.7. -/
theorem test_cancel_abandons_the_key_wait :
    view (fun t => (t.run, t.PC))
        (step { small with PC := 0x204, run := .blocked 5, env.inputs := [⟨keysOf [4], true⟩] }) =
      some (.halted ⟨.cancelled, 0xF50A, 0x202, 0⟩, 0x202) := by decide

/-- 20_memory.md R53: writing back what an unlisted address reads as removes the entry. -/
theorem test_memory_stays_canonical :
    Memory.write (Memory.write [] 0x300 7) 0x300 0 = [] ∧ Memory.write (Memory.write [] 9 1) 3 1 = [(3, 1), (9, 1)] := by
  decide

/-! ## Witnesses: a concrete state and operands that meet the hypotheses of each obligation, clause by clause -/

/-- A good state in the middle of a tick. -/
def midTick : State := { small with phase := .slots 2 }

theorem witness_midTick_Inv : midTick.Inv where
  spLegal := by decide
  memCanonical := State.reset_mem_wf
  speedPositive := by decide
  slotsBounded := fun _ h => by cases h; decide
  haltPrecise := fun _ h => by cases h
  toneLatched := fun h => by cases h

/-- A sprite of four rows, `0x80`, at 0x300, to be drawn at row and column `V1` and `V0`, with `fb[0][0]` set. -/
def sprite (v0 v1 : Byte) (wrapY : Bool) : State :=
  ({ withRegs [(0, v0), (1, v1)] with
      I := 0x300, fb := (togglePixel FrameBuffer.clear (0, 0)).1, cfg.wrapY := wrapY }).storeBytes
    0x300 [0x80, 0x80, 0x80, 0x80]

theorem witness_ResetMemoryHoldsTheFont : (0x104F : Word16).toNat % 4096 < 80 ∧ 80 ≤ (0x1050 : Word16).toNat % 4096 := by
  decide

theorem witness_LoadProgramCopiesVerbatimOrRefuses :
    (List.replicate 3584 (0 : Byte)).length ≤ 3584 ∧ 3584 < (List.replicate 3585 (0 : Byte)).length := by
  simp only [List.length_replicate]; decide

theorem witness_BootFetchesTheFirstWordOfTheProgram :
    (List.replicate 3582 (0 : Byte)).length ≤ 3582 ∧ 3582 < (List.replicate 3583 (0 : Byte)).length ∧
      ∃ t, boot defaultFont small.cfg (some []) = .ok t := by
  simp only [List.length_replicate]; exact ⟨by decide, by decide, _, rfl⟩

theorem witness_DecodeOfEncodeIsTheInstruction : (Instr.drw 15 15 15).wf = true := by decide

theorem witness_EncodeOfDecodeIsTheWord : decode 0xFFFF = .error (.unknownInstruction 0xFFFF) ∧
    decode 0xDFFF = .ok (.drw 15 15 15) := ⟨rfl, rfl⟩

theorem witness_DecodeAcceptsExactlyTheTable :
    decode 0x80F5 = .ok (.sub 0 15) ∧ (∃ r ∈ opcodeTable, r.selects 0x80F5 = true) ∧
      decode 0x80F8 = .error (.unknownInstruction 0x80F8) := ⟨rfl, by decide, rfl⟩

theorem witness_StepRunsTheDecodedInstruction :
    ∃ s : State, s.run = .runnable ∧ s.phase = .slots (0 + 1) ∧ s.mem.read (s.PC.toNat % 4096) = 0x61 ∧
      s.mem.read ((s.PC.toNat + 1) % 4096) = 0x77 ∧ decode (0x61#8 ++ 0x77#8) = .ok (.ldImm 1 0x77) :=
  ⟨{ small with PC := 0xFFF }.withFetchWord 16 0x6177, rfl, rfl, by decide, by decide, rfl⟩

theorem witness_PlacedWordIsRunNext : decode 0x00EE = .ok .ret := rfl

theorem witness_UnknownWordHaltsAndWritesNothing :
    small.run = .runnable ∧ ∀ r ∈ opcodeTable, r.selects small.fetch = false := by decide

theorem witness_HaltedCoreStaysAsItIs :
    (small.raiseFatal .cancelled 0).run = .halted ⟨.cancelled, 0, 0x200, 0⟩ := rfl

theorem witness_FatalConditionsArePrecise :
    (∃ t, exec .ret small = .next t ∧ t.run = .halted ⟨.stackUnderflow, 0x00EE, 0x200, 0⟩) ∧
      (∃ t, exec (.call 0x300) { small with SP := 16 } = .next t ∧ t.run = .halted ⟨.stackOverflow, 0x2300, 0x200, 16⟩) ∧
      ∃ t, exec (.skp 0) (withRegs [(0, 16)]) = .next t ∧ t.run = .halted ⟨.keyCodeOutOfRange, 0xE09E, 0x200, 0⟩ :=
  ⟨⟨_, rfl, rfl⟩, ⟨_, rfl, rfl⟩, ⟨_, rfl, rfl⟩⟩

/-- One run of each of the five reasons ends so. -/
theorem witness_StepHaltsOnlyForANamedReason :
    view (·.run) (step { small with env.inputs := [⟨noKeys, true⟩] }) = some (.halted ⟨.cancelled, 0, 0x200, 0⟩) ∧
      view (·.run) (run1 0 small) = some (.halted ⟨.unknownInstruction, 0, 0x200, 0⟩) ∧
      view (·.run) (run1 0x2300 { small with SP := 16 }) = some (.halted ⟨.stackOverflow, 0x2300, 0x200, 16⟩) ∧
      view (·.run) (run1 0x00EE small) = some (.halted ⟨.stackUnderflow, 0x00EE, 0x200, 0⟩) ∧
      view (·.run) (run1 0xE0A1 (withRegs [(0, 16)])) = some (.halted ⟨.keyCodeOutOfRange, 0xE0A1, 0x200, 0⟩) := by decide

theorem witness_EveryStepKeepsTheInvariant : midTick.Inv ∧ ∃ t, step midTick = .next t := ⟨witness_midTick_Inv, _, rfl⟩

theorem witness_InvariantHoldsAfterBoot :
    ∃ t, 1 ≤ small.cfg.speed ∧ boot defaultFont small.cfg (some [0x12, 0x00]) = .ok t := ⟨_, by decide, rfl⟩

theorem witness_GoodStatesAlwaysStep : ∃ s : State, s.Inv := ⟨midTick, witness_midTick_Inv⟩

theorem witness_StepsMakeUpTheSpecsTick : small.phase = .between := rfl

theorem witness_ClosingPhasesCountDownAndHandOver :
    ∃ s : State, s.run.isHalted = false ∧ s.phase = .slots 0 ∧ s.run = .blocked 15 :=
  ⟨{ small with run := .blocked 15, phase := .slots 0 }, rfl, rfl, rfl⟩

theorem witness_TickStartSamplesTheKeys :
    ∃ s : State, s.run.isHalted = false ∧ s.phase = .between ∧ s.nextInput.cancel = false ∧
      s.env.inputs = ⟨keysOf [7], false⟩ :: [] :=
  ⟨{ small with env.inputs := [⟨keysOf [7], false⟩] }, rfl, rfl, rfl, rfl⟩

theorem witness_CancellationAtATickStart :
    (∃ s : State, s.phase = .between ∧ s.nextInput.cancel = true ∧ s.run = .runnable) ∧
      ∃ s : State, s.phase = .between ∧ s.nextInput.cancel = true ∧ s.run = .blocked 15 ∧ s.PC = 0x0001 :=
  ⟨⟨{ small with env.inputs := [⟨noKeys, true⟩] }, rfl, rfl, rfl⟩,
    { small with run := .blocked 15, PC := 1, env.inputs := [⟨noKeys, true⟩] }, rfl, rfl, rfl, rfl⟩

theorem witness_PollCompletesTheKeyWait :
    ∃ s t : State, s.run = .blocked 15 ∧ s.phase = .slots (0 + 1) ∧ isPressed s.keys 15 = true ∧
      t.run = .blocked 0 ∧ t.phase = .slots (1 + 1) ∧ ∀ k, isPressed t.keys k = false :=
  ⟨{ small with run := .blocked 15, phase := .slots 1, keys := keysOf [15] },
    { small with run := .blocked 0, phase := .slots 2 }, rfl, rfl, by decide, rfl, rfl, by decide⟩

theorem witness_HostSideChangesOnlyAtTickBoundaries :
    (∃ t, step midTick = .next t) ∧ midTick.phase ≠ .between ∧ midTick.phase ≠ .slots 0 ∧
      (∃ t, step { small with env.inputs := [⟨noKeys, false⟩] } = .next t) ∧ small.phase = .between :=
  ⟨⟨_, rfl⟩, by decide, by decide, ⟨_, rfl⟩, rfl⟩

theorem witness_ReturnPopsTheStack :
    ∀ sp ∈ [(1 : Byte), 16], 1 ≤ ({ small with SP := sp } : State).SP.toNat ∧
      ({ small with SP := sp } : State).SP.toNat ≤ 16 := by decide

theorem witness_ReturnUnderflows : small.SP = 0 := rfl

theorem witness_CallPushesTheReturnAddress :
    ({ small with SP := 15 } : State).SP.toNat < 16 ∧ ({ small with SP := 16 } : State).SP.toNat = 16 := by decide

theorem witness_CallThenReturnComesBack : ({ small with SP := 15 } : State).SP.toNat < 16 := by decide

theorem witness_StackFaultOnlyAboveSixteen :
    exec .ret { small with SP := 17 } = .fault .stackPointerOutOfRange ∧
      exec (.call 0x300) { small with SP := 17 } = .fault .stackPointerOutOfRange := ⟨rfl, rfl⟩

theorem witness_ComparesSkipOneWord :
    (withRegs [(1, 7), (2, 8)]).reg 1 = 7 ∧ (withRegs [(1, 7), (2, 8)]).reg 1 ≠ 8 ∧
      (withRegs [(1, 7), (2, 8)]).reg 1 ≠ (withRegs [(1, 7), (2, 8)]).reg 2 ∧
      (withRegs [(1, 7), (2, 7)]).reg 1 = (withRegs [(1, 7), (2, 7)]).reg 2 := by decide

theorem witness_OrdinaryInstructionsAdvanceByTwo :
    (Instr.ldVxK 0).transfersControl = false ∧ (∃ t, exec (.ldVxK 0) small = .next t) ∧
      (Instr.loadRegs 15).transfersControl = false ∧ ∃ t, exec (.loadRegs 15) small = .next t :=
  ⟨rfl, ⟨_, rfl⟩, rfl, ⟨_, rfl⟩⟩

theorem witness_AddSetsTheCarry :
    ∃ x y : Reg, x ≠ 15 ∧ ((withRegs [(0, 0xFF)]).reg x).toNat + ((withRegs [(0, 0xFF)]).reg y).toNat = 255 :=
  ⟨0, 1, by decide, by decide⟩

/-- Each of the four clauses: neither register VF, x only, y only, both; with equal operands, where the flag turns. -/
theorem witness_SubtractionsSetAStrictFlag :
    ∃ (s : State) (a b f g : Nat), a = (s.reg 0).toNat ∧ b = (s.reg 1).toNat ∧ f = (if b < a then 1 else 0) ∧
      g = (if a < b then 1 else 0) ∧ (0 : Reg) ≠ 15 ∧ (1 : Reg) ≠ 15 :=
  ⟨withRegs [(0, 5), (1, 5)], 5, 5, 0, 0, by decide, by decide, rfl, rfl, by decide, by decide⟩

theorem witness_RandomTakesOneDrawUnderTheMask :
    ({ small with env.draws := [0xA5, 0x11] } : State).env.draws = 0xA5 :: [0x11] := rfl

theorem witness_FlagValuesAndNoOtherWriteOfVF :
    (Instr.addReg 0 1 ∈ [Instr.addReg 0 1, .sub 0 1, .shr 0 1, .subn 0 1] ∧ (0 : Reg) ≠ 15) ∧
      (∃ t, exec (.addReg 0 1) small = .next t) ∧ (∃ t, exec (.drw 0 1 0) small = .next t) ∧
      (∃ t, exec (.shl 0 1) small = .next t) ∧ (Instr.ldReg 0 15).writesFlag = false ∧
      (Instr.ldReg 0 15).namesVF = false ∧ ∃ t, exec (.ldReg 0 15) small = .next t :=
  ⟨by decide, ⟨_, rfl⟩, ⟨_, rfl⟩, ⟨_, rfl⟩, rfl, rfl, ⟨_, rfl⟩⟩

theorem witness_RegistersAreStoredAndLoaded : (0 : Reg) ≤ 0 ∧ (15 : Reg) ≤ 15 ∧ (14 : Reg) < 15 := by decide

theorem witness_StoreThenLoadRoundTrips :
    ∃ s t u w : State, exec (.storeRegs 2) s = .next t ∧ u.I = s.I ∧ u.mem = t.mem ∧ u.V ≠ s.V ∧
      exec (.loadRegs 2) u = .next w :=
  ⟨{ withRegs [(0, 0x11), (1, 0x22), (2, 0x33)] with I := 0xFFF }, _,
    { small with I := 0xFFF, mem := Memory.writeBytes [] 0xFFF [0x11, 0x22, 0x33] }, _, rfl, rfl, by decide, by decide, rfl⟩

theorem witness_StoredWordIsFetchedNext :
    ∃ s t : State, 1 ≤ (1 : Reg).val ∧ (s.PC.toNat + 2) % 4096 = s.I.toNat % 4096 ∧ exec (.storeRegs 1) s = .next t :=
  ⟨{ small with PC := 0xFFE, I := 0x1000 }, _, by decide, by decide, rfl⟩

theorem witness_TogglePixelFlipsOneAndReportsIt : ((31, 63) : Pixel) ≠ (31, 62) := by decide

/-- A pixel that is hit and one that is not; a hit pixel that is set, and a draw of which none is. -/
theorem witness_DrawFlipsTheMappedBits :
    (sprite 0 31 true).SpriteHits 31 0 2 (0, 0) ∧ pixelAt (sprite 0 31 true).fb (0, 0) = true ∧
      (sprite 0 31 false).SpriteHits 31 0 2 (31, 0) ∧ ¬ (sprite 0 31 false).SpriteHits 31 0 2 (0, 0) := by
  refine ⟨⟨1, 0, by decide, by decide, by decide, by decide, by decide⟩, by decide,
    ⟨0, 0, by decide, by decide, by decide, by decide, by decide⟩, ?_⟩
  rintro ⟨r, c, -, -, -, -, h⟩
  have h' : (0 : Nat) = 31 + r := h
  omega

theorem witness_DrawingTwiceRestoresTheBuffer :
    ∃ s t u : State, (0 : Reg) ≠ 15 ∧ (1 : Reg) ≠ 15 ∧ exec (.drw 0 1 2) s = .next t ∧ exec (.drw 0 1 2) t = .next u :=
  ⟨sprite 0 0 false, _, _, by decide, by decide, rfl, rfl⟩

/-- Sprite rows 1 and 3 each have a set bit, and no pixel of rows 30 and 31 is set, while one of row 0 is. -/
theorem witness_RowsWrapOrAreDropped :
    ∀ wrapY, (sprite 0 30 wrapY).reg 1 = 30 ∧ (sprite 0 30 wrapY).cfg.wrapY = wrapY ∧
      (∃ t, exec (.drw 0 1 4) (sprite 0 30 wrapY) = .next t) ∧ (sprite 0 30 wrapY).SpriteBit 1 0 ∧
      (sprite 0 30 wrapY).SpriteBit 3 0 ∧ pixelAt (sprite 0 30 wrapY).fb (30, 0) = false ∧
      pixelAt (sprite 0 30 wrapY).fb (31, 0) = false ∧ pixelAt (sprite 0 30 wrapY).fb (0, 0) = true :=
  fun w => ⟨rfl, rfl, ⟨_, rfl⟩, by cases w <;> decide, by cases w <;> decide, rfl, rfl, rfl⟩

theorem witness_KeySkipsReadTheTicksKeys :
    ((withRegs [(0, 15)]).reg 0).toNat = (15 : KeyCode).val ∧ 15 < ((withRegs [(0, 16)]).reg 0).toNat := by decide

theorem witness_KeyWaitStoresAPressedKeyOrBlocks :
    isPressed (keysOf [15]) 15 = true ∧ ∀ k, isPressed small.keys k = false := by decide

/-- For each part, a run of an instruction that changes it. -/
theorem witness_OnlyTheNamedInstructionsWriteEachPart :
    view (·.I) (exec (.addI 0) (withRegs [(0, 1)])) = some 1 ∧ view (·.SP) (exec (.call 0x300) small) = some 1 ∧
      view (fun t => t.stack[0]) (exec (.call 0x300) small) = some 0x202 ∧
      view (·.DT) (exec (.ldDtVx 0) (withRegs [(0, 1)])) = some 1 ∧
      view (·.ST) (exec (.ldStVx 0) (withRegs [(0, 1)])) = some 1 ∧
      view (·.mem) (exec (.ldB 0) { withRegs [(0, 9)] with I := 0x2FE }) = some [(0x300, 9)] ∧
      view (pixels [(0, 0)]) (exec .cls (sprite 0 0 false)) = some [false] ∧
      view (·.run) (exec (.ldVxK 4) small) = some (.blocked 4) ∧
      view (·.env.drawNo) (exec (.rnd 0 0) small) = some 1 ∧
      view (·.reg 9) (exec (.loadRegs 9) small) = some 0x70 ∧ view (·.PC) (exec (.jp 0x300) small) = some 0x300 := by
  decide

/-- The lowest key that is down, as a select_key. -/
def lowestKey (keys : KeySet) : KeyCode := (pressedKeys keys).headD 0

theorem witness_NewSessionTakesItsOwnSelectKey :
    (∀ keys k, isPressed keys k = true → isPressed keys (lowestKey keys) = true) ∧
      (List.replicate 3584 (0 : Byte)).length ≤ 3584 ∧
      ∃ s : State, s.cfg.keyPicks = [(keysOf [1, 7], 1)] ∧ isPressed s.keys 7 = true ∧
        s.run = .blocked 15 ∧ s.phase = .slots (0 + 1) ∧ lowestKey s.keys = 1 := by
  refine ⟨fun keys k h => ?_, by simp only [List.length_replicate]; decide,
    { small with run := .blocked 15, phase := .slots 1, keys := keysOf [1, 7], cfg.keyPicks := [(keysOf [1, 7], 1)] },
    rfl, by decide, rfl, rfl, by decide⟩
  have hk := (mem_pressedKeys keys k).mpr h
  unfold lowestKey
  cases hl : pressedKeys keys with
  | nil => rw [hl] at hk; cases hk
  | cons a l => exact (mem_pressedKeys keys a).mp (hl ▸ List.mem_cons_self)

end Sys2Proof.Tests
end

section
/-! The core run from a halted state: such a state is a fixed point of `step` (spec/40_dispatch_cycle.md R108,
spec/60_exceptions.md R256). -/

namespace Sys2Proof.Machine

theorem RunState.isHalted_of_eq_halted {r : RunState} {h : HaltRecord} (hr : r = .halted h) : r.isHalted = true := by
  rw [hr]; rfl

/-- The scheduler's halted branch, whatever the phase. -/
theorem step_of_isHalted {s : State} (hs : s.run.isHalted = true) : step s = .next s := by
  simp only [step, State.schedule, hs]

/-- Running the core one step further is running it from the state that step gives. -/
theorem core_run_succ_of_step {s t : State} (n : Nat) (h : step s = .next t) :
    Host.Core.run Sys2Proof.core (n + 1) s = Host.Core.run Sys2Proof.core n t := by
  have hcore : Sys2Proof.core.step s = .next t := h
  simp only [Host.Core.run, hcore]

/-- A fixed point of `step` is one of every number of steps. -/
theorem core_run_of_step_self {s : State} (h : step s = .next s) (n : Nat) :
    Host.Core.run Sys2Proof.core n s = .next s := by
  induction n with
  | zero => rfl
  | succ n ih => exact (core_run_succ_of_step n h).trans ih

/-- Settles O12: a halted state is a fixed point of `step`, hence of every run. -/
theorem haltedCoreStaysAsItIs : Obligations.HaltedCoreStaysAsItIs := by
  intro s h n hs
  exact core_run_of_step_self (step_of_isHalted (RunState.isHalted_of_eq_halted hs)) n

end Sys2Proof.Machine
end

section
/-! The two jumps: their words, their targets, and that they set PC and keep the rest of the state
(spec/41_control_flow.md R122, R128). -/

namespace Sys2Proof.Machine

/-- The largest target is 0xFFF + 0xFF, so the 16-bit sum is the exact one (R128). -/
theorem jumpV0Target_toNat (nnn : Addr12) (v : Byte) : (zext16 nnn + zext16 v).toNat = nnn.toNat + v.toNat := by
  have hsum : nnn.toNat + v.toNat < 65536 := by have := nnn.isLt; have := v.isLt; omega
  rw [BitVec.toNat_add, BitVec.toNat_setWidth_of_le (by decide), BitVec.toNat_setWidth_of_le (by decide)]
  exact Nat.mod_eq_of_lt hsum

theorem decode_encode_jp (nnn : Addr12) : decode (encode (.jp nnn)) = .ok (.jp nnn) := by
  simp [encode, decode, fieldOp_address, fieldNNN_address]

theorem decode_encode_jpV0 (nnn : Addr12) : decode (encode (.jpV0 nnn)) = .ok (.jpV0 nnn) := by
  simp [encode, decode, fieldOp_address, fieldNNN_address]

theorem encodedAs_jp (nnn : Addr12) : EncodedAs (.jp nnn) 0x1000 0xF000 :=
  ⟨Laws.FixedDigits.jp nnn, decode_encode_jp nnn⟩

theorem encodedAs_jpV0 (nnn : Addr12) : EncodedAs (.jpV0 nnn) 0xB000 0xF000 :=
  ⟨Laws.FixedDigits.jpV0 nnn, decode_encode_jpV0 nnn⟩

theorem exec_jp (nnn : Addr12) (s : State) : exec (.jp nnn) s = .next (s.advance.jumpTo (zext16 nnn)) := rfl

theorem exec_jpV0 (nnn : Addr12) (s : State) :
    exec (.jpV0 nnn) s = .next (s.advance.jumpTo (zext16 nnn + zext16 (s.reg 0))) := rfl

/-- Fetching and then jumping changes PC alone. -/
theorem keepsAllBut_advance_jumpTo (s : State) (p : Word16) : KeepsAllBut [.PC] s (s.advance.jumpTo p) := by
  constructor <;> simp

/-- Settles O28, from the word and the next state of each jump. -/
theorem jumpsSetThePC : Obligations.JumpsSetThePC := by
  intro nnn s
  refine ⟨encodedAs_jp nnn, encodedAs_jpV0 nnn,
    ⟨_, exec_jp nnn s, ?_, keepsAllBut_advance_jumpTo s _⟩,
    ⟨_, exec_jpV0 nnn s, ?_, keepsAllBut_advance_jumpTo s _⟩⟩
  · exact BitVec.toNat_setWidth_of_le (by decide)
  · exact jumpV0Target_toNat nnn (s.reg 0)

end Sys2Proof.Machine
end

section
/-! The register loads, the addition of a constant, and the bitwise instructions: their words, and that each writes Vx
alone (spec/42_alu.md R141 to R146). -/

namespace Sys2Proof.Machine

/-! ## The words -/

theorem decode_encode_ldImm (x : Reg) (kk : Byte) : decode (encode (.ldImm x kk)) = .ok (.ldImm x kk) := by
  simp [encode, decode, fieldOp_regByte, fieldX_regByte, fieldKK_regByte]

theorem decode_encode_addImm (x : Reg) (kk : Byte) : decode (encode (.addImm x kk)) = .ok (.addImm x kk) := by
  simp [encode, decode, fieldOp_regByte, fieldX_regByte, fieldKK_regByte]

/-- The words with the first digit 8 go to the decoder's second level, which reads the last digit (R73). -/
theorem decode_eight (x y : Reg) (e : BitVec 4) :
    decode (0x8#4 ++ nibble x ++ nibble y ++ e) = decode8 (0x8#4 ++ nibble x ++ nibble y ++ e) := by
  simp [decode, fieldOp_regReg]

theorem decode_encode_ldReg (x y : Reg) : decode (encode (.ldReg x y)) = .ok (.ldReg x y) := by
  simp [encode, decode_eight, decode8, fieldN_regReg, fieldX_regReg, fieldY_regReg]

theorem decode_encode_orReg (x y : Reg) : decode (encode (.orReg x y)) = .ok (.orReg x y) := by
  simp [encode, decode_eight, decode8, fieldN_regReg, fieldX_regReg, fieldY_regReg]

theorem decode_encode_andReg (x y : Reg) : decode (encode (.andReg x y)) = .ok (.andReg x y) := by
  simp [encode, decode_eight, decode8, fieldN_regReg, fieldX_regReg, fieldY_regReg]

theorem decode_encode_xorReg (x y : Reg) : decode (encode (.xorReg x y)) = .ok (.xorReg x y) := by
  simp [encode, decode_eight, decode8, fieldN_regReg, fieldX_regReg, fieldY_regReg]

theorem encodedAs_ldImm (x : Reg) (kk : Byte) : EncodedAs (.ldImm x kk) 0x6000 0xF000 :=
  ⟨Laws.FixedDigits.ldImm x kk, decode_encode_ldImm x kk⟩

theorem encodedAs_addImm (x : Reg) (kk : Byte) : EncodedAs (.addImm x kk) 0x7000 0xF000 :=
  ⟨Laws.FixedDigits.addImm x kk, decode_encode_addImm x kk⟩

theorem encodedAs_ldReg (x y : Reg) : EncodedAs (.ldReg x y) 0x8000 0xF00F :=
  ⟨Laws.FixedDigits.ldReg x y, decode_encode_ldReg x y⟩

theorem encodedAs_orReg (x y : Reg) : EncodedAs (.orReg x y) 0x8001 0xF00F :=
  ⟨Laws.FixedDigits.orReg x y, decode_encode_orReg x y⟩

theorem encodedAs_andReg (x y : Reg) : EncodedAs (.andReg x y) 0x8002 0xF00F :=
  ⟨Laws.FixedDigits.andReg x y, decode_encode_andReg x y⟩

theorem encodedAs_xorReg (x y : Reg) : EncodedAs (.xorReg x y) 0x8003 0xF00F :=
  ⟨Laws.FixedDigits.xorReg x y, decode_encode_xorReg x y⟩

/-! ## The next states -/

theorem exec_ldImm (x : Reg) (kk : Byte) (s : State) : exec (.ldImm x kk) s = .next (s.advance.setReg x kk) := rfl

theorem exec_addImm (x : Reg) (kk : Byte) (s : State) :
    exec (.addImm x kk) s = .next (s.advance.setReg x (s.reg x + kk)) := rfl

theorem exec_ldReg (x y : Reg) (s : State) : exec (.ldReg x y) s = .next (s.advance.setReg x (s.reg y)) := rfl

theorem exec_orReg (x y : Reg) (s : State) :
    exec (.orReg x y) s = .next (s.advance.setReg x (s.reg x ||| s.reg y)) := rfl

theorem exec_andReg (x y : Reg) (s : State) :
    exec (.andReg x y) s = .next (s.advance.setReg x (s.reg x &&& s.reg y)) := rfl

theorem exec_xorReg (x y : Reg) (s : State) :
    exec (.xorReg x y) s = .next (s.advance.setReg x (s.reg x ^^^ s.reg y)) := rfl

/-- The registers' side of the frame: VF too is kept, unless it is Vx (R153). -/
theorem keepsRegsBut_advance_setReg (s : State) (x : Reg) (v : Byte) : KeepsRegsBut [x] s (s.advance.setReg x v) := by
  intro r hr
  have hne : r ≠ x := by simpa using hr
  rw [State.reg_setReg_ne _ _ _ _ hne, State.advance_reg]

/-- Fetching and then writing a register changes PC and the registers alone. -/
theorem keepsAllBut_advance_setReg (s : State) (x : Reg) (v : Byte) :
    KeepsAllBut [.V, .PC] s (s.advance.setReg x v) := by
  constructor <;> simp

/-- What the six instructions share: the slot writes `v` to Vx, so what holds of `v` holds of the new Vx, and the rest
of the state is kept. -/
theorem writesVx_of_exec_eq {i : Instr} {s : State} {x : Reg} {v : Byte} {P : Byte → Prop}
    (h : exec i s = .next (s.advance.setReg x v)) (hv : P v) :
    ∃ t, exec i s = .next t ∧ P (t.reg x) ∧ KeepsRegsBut [x] s t ∧ KeepsAllBut [.V, .PC] s t := by
  refine ⟨_, h, ?_, keepsRegsBut_advance_setReg s x v, keepsAllBut_advance_setReg s x v⟩
  rwa [State.reg_setReg_same]

/-- Settles O31: each of the two writes its byte to Vx alone, and a byte's sum is the sum mod 256. -/
theorem immediatesLoadAndAdd : Obligations.ImmediatesLoadAndAdd := by
  intro x kk s
  exact ⟨encodedAs_ldImm x kk, encodedAs_addImm x kk,
    writesVx_of_exec_eq (P := (· = kk)) (exec_ldImm x kk s) rfl,
    writesVx_of_exec_eq (P := (IsMod256 · ((s.reg x).toNat + kk.toNat))) (exec_addImm x kk s)
      (BitVec.toNat_add (s.reg x) kk)⟩

/-- Settles O32: each of the four writes its byte to Vx alone, and the bitwise ones compute it bit by bit. -/
theorem copyAndLogicWriteOnlyVx : Obligations.CopyAndLogicWriteOnlyVx := by
  intro x y s
  refine ⟨encodedAs_ldReg x y, encodedAs_orReg x y, encodedAs_andReg x y, encodedAs_xorReg x y, ?_, ?_, ?_, ?_⟩
  · exact writesVx_of_exec_eq (P := (· = s.reg y)) (exec_ldReg x y s) rfl
  · exact writesVx_of_exec_eq (P := fun v => ∀ b, v.getLsbD b = ((s.reg x).getLsbD b || (s.reg y).getLsbD b))
      (exec_orReg x y s) fun _ => BitVec.getLsbD_or
  · exact writesVx_of_exec_eq (P := fun v => ∀ b, v.getLsbD b = ((s.reg x).getLsbD b && (s.reg y).getLsbD b))
      (exec_andReg x y s) fun _ => BitVec.getLsbD_and
  · exact writesVx_of_exec_eq (P := fun v => ∀ b, v.getLsbD b = ((s.reg x).getLsbD b ^^ (s.reg y).getLsbD b))
      (exec_xorReg x y s) fun _ => BitVec.getLsbD_xor

end Sys2Proof.Machine
end

section
/-! The two instructions that load the index register: their words, and that each writes I alone
(spec/43_index_memory.md R171, R173). -/

namespace Sys2Proof.Machine

theorem decode_encode_ldI (nnn : Addr12) : decode (encode (.ldI nnn)) = .ok (.ldI nnn) := by
  simp [encode, decode, fieldOp_address, fieldNNN_address]

/-- The words with the first digit F go to the decoder's second level, which reads the low byte (R73). -/
theorem decode_fifteen (x : Reg) (kk : Byte) :
    decode (0xF#4 ++ nibble x ++ kk) = decodeF (0xF#4 ++ nibble x ++ kk) := by
  simp [decode, fieldOp_regByte]

theorem decode_encode_ldF (x : Reg) : decode (encode (.ldF x)) = .ok (.ldF x) := by
  simp [encode, decode_fifteen, decodeF, fieldKK_regByte, fieldX_regByte]

theorem encodedAs_ldI (nnn : Addr12) : EncodedAs (.ldI nnn) 0xA000 0xF000 :=
  ⟨Laws.FixedDigits.ldI nnn, decode_encode_ldI nnn⟩

theorem encodedAs_ldF (x : Reg) : EncodedAs (.ldF x) 0xF029 0xF0FF :=
  ⟨Laws.FixedDigits.ldF x, decode_encode_ldF x⟩

theorem exec_ldI (nnn : Addr12) (s : State) : exec (.ldI nnn) s = .next (s.advance.setIndex (zext16 nnn)) := rfl

theorem exec_ldF (x : Reg) (s : State) :
    exec (.ldF x) s = .next (s.advance.setIndex (glyphAddress (s.reg x))) := rfl

/-- Fetching and then loading the index register changes PC and I alone. -/
theorem keepsAllBut_advance_setIndex (s : State) (v : Word16) :
    KeepsAllBut [.I, .PC] s (s.advance.setIndex v) := by
  constructor <;> simp

/-- Settles O38: each of the two writes I alone, the address as it is or the glyph's address of the whole byte Vx. -/
theorem indexLoadsAddressOrGlyph : Obligations.IndexLoadsAddressOrGlyph := by
  intro nnn x s
  refine ⟨encodedAs_ldI nnn, encodedAs_ldF x,
    ⟨_, exec_ldI nnn s, ?_, keepsAllBut_advance_setIndex s _⟩,
    ⟨_, exec_ldF x s, ?_, keepsAllBut_advance_setIndex s _⟩⟩
  · rw [State.setIndex_I]
    exact BitVec.toNat_setWidth_of_le (by decide)
  · rw [State.setIndex_I]
    exact glyphAddress_toNat (s.reg x)

end Sys2Proof.Machine
end

section
/-! The pixel buffer's two basic operations: what one toggle does, and that CLS clears the buffer alone
(spec/44_display.md R191, R192, R195). -/

namespace Sys2Proof.Machine

theorem pixelAt_togglePixel_same (fb : FrameBuffer) (p : Pixel) :
    pixelAt (togglePixel fb p).1 p = !pixelAt fb p := by
  rw [pixelAt_togglePixel, if_pos rfl]

theorem pixelAt_togglePixel_ne (fb : FrameBuffer) {p q : Pixel} (h : q ≠ p) :
    pixelAt (togglePixel fb p).1 q = pixelAt fb q := by
  rw [pixelAt_togglePixel, if_neg h]

/-- Because the toggle always flips its pixel, a pixel that was set is clear afterwards: reporting the old value is
reporting the transition from 1 to 0 (R192). -/
theorem togglePixel_collision_iff (fb : FrameBuffer) (p : Pixel) :
    (togglePixel fb p).2 = true ↔ pixelAt fb p = true ∧ pixelAt (togglePixel fb p).1 p = false := by
  rw [togglePixel_collision, pixelAt_togglePixel_same, Bool.not_eq_false', and_self]

/-- Settles O46, from the toggled pixel, the other pixels and the report. -/
theorem togglePixelFlipsOneAndReportsIt : Obligations.TogglePixelFlipsOneAndReportsIt := by
  intro fb p
  exact ⟨pixelAt_togglePixel_same fb p, fun _ hq => pixelAt_togglePixel_ne fb hq, togglePixel_collision_iff fb p⟩

theorem decode_encode_cls : decode (encode .cls) = .ok .cls := by decide

theorem encodedAs_cls : EncodedAs .cls 0x00E0 0xFFFF :=
  ⟨Laws.FixedDigits.cls, decode_encode_cls⟩

theorem exec_cls (s : State) : exec .cls s = .next (s.advance.setPixels FrameBuffer.clear) := rfl

/-- Fetching and then replacing the pixel buffer changes PC and the buffer alone. -/
theorem keepsAllBut_advance_setPixels (s : State) (fb : FrameBuffer) :
    KeepsAllBut [.fb, .PC] s (s.advance.setPixels fb) := by
  constructor <;> simp

/-- Settles O45: CLS puts the clear buffer in place of the old one. -/
theorem clearSetsEveryPixelToZero : Obligations.ClearSetsEveryPixelToZero := by
  refine ⟨encodedAs_cls, fun s => ⟨_, exec_cls s, fun p => ?_, keepsAllBut_advance_setPixels s _⟩⟩
  rw [State.setPixels_fb, pixelAt_clear]

end Sys2Proof.Machine
end

section
/-! The decoder and the encoder are inverse to each other, and together they are the opcode table
(spec/30_encoding.md R71 to R77). -/

namespace Sys2Proof

open Sys2Proof.Machine

/-! ## Decoding an encoded instruction -/

@[simp] theorem toFin_nibble (k : Fin 16) : (nibble k).toFin = k := rfl

/-- The words with the first digit E go to the decoder's second level, which reads the low byte (R73). -/
theorem decode_fourteen (x : Reg) (kk : Byte) :
    decode (0xE#4 ++ nibble x ++ kk) = decodeE (0xE#4 ++ nibble x ++ kk) := by
  simp [decode, fieldOp_regByte]

/-- By the shape of the word: an address, a register and a byte, or two registers and a last digit. -/
theorem decode_encode (i : Instr) : decode (encode i) = .ok i := by
  cases i with
  | cls | ret => decide
  | jp | call | ldI | jpV0 => simp [encode, decode, fieldOp_address, fieldNNN_address]
  | seImm | sneImm | ldImm | addImm | rnd =>
    simp [encode, decode, fieldOp_regByte, fieldX_regByte, fieldKK_regByte]
  | seReg | sneReg | drw => simp [encode, decode, fieldOp_regReg, fieldN_regReg, fieldX_regReg, fieldY_regReg]
  | ldReg | orReg | andReg | xorReg | addReg | sub | shr | subn | shl =>
    simp [encode, decode_eight, decode8, fieldN_regReg, fieldX_regReg, fieldY_regReg]
  | skp | sknp => simp [encode, decode_fourteen, decodeE, fieldKK_regByte, fieldX_regByte]
  | ldVxDt | ldVxK | ldDtVx | ldStVx | addI | ldF | ldB | storeRegs | loadRegs =>
    simp [encode, decode_fifteen, decodeF, fieldKK_regByte, fieldX_regByte]

/-- Settles O5: the law needs no bound on the operands, since their types carry it. -/
theorem decodeOfEncodeIsTheInstruction : Obligations.DecodeOfEncodeIsTheInstruction :=
  fun i _ => decode_encode i

/-! ## A word is its fields joined -/

section
variable {w : Word16} {i : Instr} {d e : BitVec 4}

theorem fields_join (w : Word16) : w.extractLsb' 12 4 ++ fieldNNN w = w :=
  (BitVec.extractLsb'_append_extractLsb'_eq_extractLsb' (by rfl : 12 = 0 + 12)).trans BitVec.extractLsb'_eq_self

theorem address_join (h : fieldOp w = d.toNat) : d ++ fieldNNN w = w := by
  have hd : w.extractLsb' 12 4 = d := BitVec.eq_of_toNat_eq h
  rw [← hd, fields_join]

theorem regByte_join (h : fieldOp w = d.toNat) : d ++ nibble (fieldX w) ++ fieldKK w = w := by
  have hd : w.extractLsb' 12 4 = d := BitVec.eq_of_toNat_eq h
  have hx : w.extractLsb' 12 4 ++ nibble (fieldX w) = w.extractLsb' 8 8 :=
    BitVec.extractLsb'_append_extractLsb'_eq_extractLsb' (by rfl : 12 = 8 + 4)
  rw [← hd, hx]
  exact (BitVec.extractLsb'_append_extractLsb'_eq_extractLsb' (by rfl : 8 = 0 + 8)).trans BitVec.extractLsb'_eq_self

/-- The same with a fixed low byte. -/
theorem regSelector_join {kk : Byte} (h : fieldOp w = d.toNat) (hk : (fieldKK w).toNat = kk.toNat) :
    d ++ nibble (fieldX w) ++ kk = w := by
  rw [← BitVec.eq_of_toNat_eq hk, regByte_join h]

theorem regReg_join (h : fieldOp w = d.toNat) :
    d ++ nibble (fieldX w) ++ nibble (fieldY w) ++ nibble (fieldN w) = w := by
  have hyn : nibble (fieldY w) ++ nibble (fieldN w) = fieldKK w :=
    BitVec.extractLsb'_append_extractLsb'_eq_extractLsb' (by rfl : 4 = 0 + 4)
  rw [BitVec.append_assoc, hyn]
  exact regByte_join h

/-- The same with a fixed last digit. -/
theorem regRegSelector_join (h : fieldOp w = d.toNat) (he : (fieldN w).val = e.toNat) :
    d ++ nibble (fieldX w) ++ nibble (fieldY w) ++ e = w := by
  have hn : nibble (fieldN w) = e := BitVec.eq_of_toNat_eq he
  rw [← hn, regReg_join h]

/-! ## Encoding a decoded word -/

theorem encode_of_decode8 (hop : fieldOp w = 8) (h : decode8 w = .ok i) : encode i = w := by
  unfold decode8 at h
  split at h <;> cases h <;> exact regRegSelector_join hop ‹_›

theorem encode_of_decodeE (hop : fieldOp w = 14) (h : decodeE w = .ok i) : encode i = w := by
  unfold decodeE at h
  split at h <;> cases h <;> exact regSelector_join hop ‹_›

theorem encode_of_decodeF (hop : fieldOp w = 15) (h : decodeF w = .ok i) : encode i = w := by
  unfold decodeF at h
  split at h <;> cases h <;> exact regSelector_join hop ‹_›

/-- The word of family 0 has no operand: its 12 bits are fixed (R73). -/
theorem fixed_join {nnn : Addr12} (h : fieldOp w = d.toNat) (hn : (fieldNNN w).toNat = nnn.toNat) : d ++ nnn = w := by
  rw [← BitVec.eq_of_toNat_eq hn, address_join h]

/-- In every branch of the decoder that answers, the fixed digits are what the branch tests and the operands are the
word's own fields. -/
theorem encode_of_decode (h : decode w = .ok i) : encode i = w := by
  simp only [decode] at h
  split at h
  next hop =>
    split at h
    next hn => cases h; exact fixed_join (d := 0x0) (nnn := 0x0E0) hop hn
    next hn => cases h; exact fixed_join (d := 0x0) (nnn := 0x0EE) hop hn
    next => cases h
  next hop => cases h; exact address_join hop
  next hop => cases h; exact address_join hop
  next hop => cases h; exact regByte_join hop
  next hop => cases h; exact regByte_join hop
  next hop => split at h <;> cases h; exact regRegSelector_join hop ‹_›
  next hop => cases h; exact regByte_join hop
  next hop => cases h; exact regByte_join hop
  next hop => exact encode_of_decode8 hop h
  next hop => split at h <;> cases h; exact regRegSelector_join hop ‹_›
  next hop => cases h; exact address_join hop
  next hop => cases h; exact address_join hop
  next hop => cases h; exact regByte_join hop
  next hop => cases h; exact regReg_join hop
  next hop => exact encode_of_decodeE hop h
  next hop => exact encode_of_decodeF hop h
  next => cases h

/-- Settles O6: the decoder keeps every field of the word, the ignored `y` of the shifts included. -/
theorem encodeOfDecodeIsTheWord : Obligations.EncodeOfDecodeIsTheWord :=
  fun _ _ => encode_of_decode

end

/-! ## The opcode table -/

section
variable {w v m : Word16}

theorem Row.selects_iff (r : Row) (w : Word16) : r.selects w = true ↔ w &&& r.mask = r.value := by
  simp [Row.selects]

theorem Instr.row_mem_opcodeTable (i : Instr) : i.row ∈ opcodeTable := by
  cases i <;> simp [Instr.row, opcodeTable]

/-- Every instruction's word has its row's fixed digits (R74). -/
theorem Instr.row_selects_encode (i : Instr) : i.row.selects (encode i) = true := by
  rw [Row.selects_iff]
  cases i with
  | cls | ret => rfl
  | jp | call | ldI | jpV0 => exact mask_address _ _
  | seImm | sneImm | ldImm | addImm | rnd => exact mask_regByte _ _ _
  | seReg | sneReg | ldReg | orReg | andReg | xorReg | addReg | sub | shr | subn | shl =>
    exact mask_regRegSelector _ _ _ _
  | drw => exact mask_regReg _ _ _ _
  | skp | sknp | ldVxDt | ldVxK | ldDtVx | ldStVx | addI | ldF | ldB | storeRegs | loadRegs =>
    exact mask_regSelector _ _ _

/-- Every instruction is encoded as its row of the table gives it. -/
theorem encodedAs_row (i : Instr) : EncodedAs i i.row.value i.row.mask :=
  ⟨(Row.selects_iff _ _).mp i.row_selects_encode, decode_encode i⟩

/-- The bits that a mask covers in full are those of the value it selects by. -/
theorem extract_of_mask (h : w &&& m = v) {k n : Nat} (hm : m.extractLsb' k n = BitVec.allOnes n) :
    w.extractLsb' k n = v.extractLsb' k n := by
  rw [← h, BitVec.extractLsb'_and, hm, BitVec.and_allOnes]

theorem fieldOp_of_mask (h : w &&& m = v) (hm : m.extractLsb' 12 4 = BitVec.allOnes 4) : fieldOp w = fieldOp v :=
  congrArg BitVec.toNat (extract_of_mask h hm)

theorem fieldN_of_mask (h : w &&& m = v) (hm : m.extractLsb' 0 4 = BitVec.allOnes 4) : fieldN w = fieldN v :=
  congrArg BitVec.toFin (extract_of_mask h hm)

theorem fieldKK_of_mask (h : w &&& m = v) (hm : m.extractLsb' 0 8 = BitVec.allOnes 8) : fieldKK w = fieldKK v :=
  extract_of_mask h hm

/-! The words that decode, by the mask of their row. -/

theorem decode_ok_of_mask_F000 (h : w &&& 0xF000 = v) (hv : fieldOp v ∈ [1, 2, 3, 4, 6, 7, 10, 11, 12, 13]) :
    ∃ i, decode w = .ok i := by
  rw [← fieldOp_of_mask h (by decide)] at hv
  simp only [List.mem_cons, List.not_mem_nil, or_false] at hv
  rcases hv with hop | hop | hop | hop | hop | hop | hop | hop | hop | hop <;> simp [decode, hop]

theorem decode_ok_of_mask_F00F (h : w &&& 0xF00F = v)
    (hv : (fieldOp v = 5 ∨ fieldOp v = 9) ∧ fieldN v = 0 ∨
      fieldOp v = 8 ∧ fieldN v ∈ ([0, 1, 2, 3, 4, 5, 6, 7, 14] : List Height)) :
    ∃ i, decode w = .ok i := by
  rw [← fieldOp_of_mask h (by decide), ← fieldN_of_mask h (by decide)] at hv
  simp only [List.mem_cons, List.not_mem_nil, or_false] at hv
  rcases hv with ⟨hop | hop, hn⟩ | ⟨hop, hn⟩
  · simp [decode, hop, hn]
  · simp [decode, hop, hn]
  · rcases hn with hn | hn | hn | hn | hn | hn | hn | hn | hn <;> simp [decode, decode8, hop, hn]

theorem decode_ok_of_mask_F0FF (h : w &&& 0xF0FF = v)
    (hv : fieldOp v = 14 ∧ fieldKK v ∈ ([0x9E, 0xA1] : List Byte) ∨
      fieldOp v = 15 ∧ fieldKK v ∈ ([0x07, 0x0A, 0x15, 0x18, 0x1E, 0x29, 0x33, 0x55, 0x65] : List Byte)) :
    ∃ i, decode w = .ok i := by
  rw [← fieldOp_of_mask h (by decide), ← fieldKK_of_mask h (by decide)] at hv
  simp only [List.mem_cons, List.not_mem_nil, or_false] at hv
  rcases hv with ⟨hop, hk | hk⟩ | ⟨hop, hk⟩
  · simp [decode, decodeE, hop, hk]
  · simp [decode, decodeE, hop, hk]
  · rcases hk with hk | hk | hk | hk | hk | hk | hk | hk | hk <;> simp [decode, decodeF, hop, hk]

/-- The four masks of the table, with the fixed digits of the rows that have them. -/
theorem opcodeTable_masks : ∀ r ∈ opcodeTable,
    (r.mask = 0xFFFF ∧ (r.value = encode .cls ∨ r.value = encode .ret)) ∨
    (r.mask = 0xF000 ∧ fieldOp r.value ∈ [1, 2, 3, 4, 6, 7, 10, 11, 12, 13]) ∨
    (r.mask = 0xF00F ∧ ((fieldOp r.value = 5 ∨ fieldOp r.value = 9) ∧ fieldN r.value = 0 ∨
      fieldOp r.value = 8 ∧ fieldN r.value ∈ ([0, 1, 2, 3, 4, 5, 6, 7, 14] : List Height))) ∨
    (r.mask = 0xF0FF ∧ (fieldOp r.value = 14 ∧ fieldKK r.value ∈ ([0x9E, 0xA1] : List Byte) ∨
      fieldOp r.value = 15 ∧
        fieldKK r.value ∈ ([0x07, 0x0A, 0x15, 0x18, 0x1E, 0x29, 0x33, 0x55, 0x65] : List Byte))) := by
  decide

/-- A word that a row selects decodes: the decoder branches on the digits that the row fixes, and on no other. -/
theorem decode_ok_of_selects {r : Row} (hr : r ∈ opcodeTable) (h : r.selects w = true) : ∃ i, decode w = .ok i := by
  rw [Row.selects_iff] at h
  rcases opcodeTable_masks r hr with ⟨hm, hv⟩ | ⟨hm, hv⟩ | ⟨hm, hv⟩ | ⟨hm, hv⟩ <;> rw [hm] at h
  · have hw : w = r.value := BitVec.and_allOnes.symm.trans h
    rw [hw]
    rcases hv with hv | hv <;> rw [hv] <;> exact ⟨_, decode_encode _⟩
  · exact decode_ok_of_mask_F000 h hv
  · exact decode_ok_of_mask_F00F h hv
  · exact decode_ok_of_mask_F0FF h hv

/-- A word that decodes is selected by the row of its instruction. -/
theorem row_selects_of_decode {i : Instr} (h : decode w = .ok i) : i.row.selects w = true := by
  rw [← encode_of_decode h]
  exact i.row_selects_encode

/-- Any two rows differ in a digit that both fix. -/
theorem opcodeTable_disjoint :
    opcodeTable.Pairwise fun r q => r.value &&& q.mask ≠ q.value &&& r.mask := by
  decide

theorem row_unique {r q : Row} (hr : r ∈ opcodeTable) (hq : q ∈ opcodeTable) (hrw : r.selects w = true)
    (hqw : q.selects w = true) : r = q := by
  by_contra hne
  have hsymm : Std.Symm fun r q : Row => r.value &&& q.mask ≠ q.value &&& r.mask := ⟨fun _ _ => Ne.symm⟩
  refine opcodeTable_disjoint.forall hr hq hne ?_
  rw [Row.selects_iff] at hrw hqw
  rw [← hrw, ← hqw, BitVec.and_assoc, BitVec.and_assoc, BitVec.and_comm r.mask]

/-- The decoder refuses a word by name, in all three of its levels. -/
theorem decode_error {e : Reject} (h : decode w = .error e) : e = .unknownInstruction w := by
  simp only [decode, decode8, decodeE, decodeF] at h
  repeat' split at h
  all_goals cases h <;> rfl

/-- A word that no row selects is refused. -/
theorem decode_error_of_unselected (h : ∀ r ∈ opcodeTable, r.selects w = false) :
    decode w = .error (.unknownInstruction w) := by
  cases hd : decode w with
  | ok i => exact absurd (row_selects_of_decode hd) (by simp [h _ i.row_mem_opcodeTable])
  | error e => rw [decode_error hd]

/-- A word that is refused is selected by no row. -/
theorem unselected_of_decode_error {e : Reject} (h : decode w = .error e) (r : Row) (hr : r ∈ opcodeTable) :
    r.selects w = false := by
  rw [Bool.eq_false_iff]
  intro hs
  obtain ⟨i, hi⟩ := decode_ok_of_selects hr hs
  rw [hi] at h
  cases h

/-- Settles O7, from the two inclusions, the rows' disjointness and the refusal. -/
theorem decodeAcceptsExactlyTheTable : Obligations.DecodeAcceptsExactlyTheTable := by
  refine ⟨fun w => ⟨?_, ?_⟩, fun w i h => ⟨i.row_mem_opcodeTable, row_selects_of_decode h⟩,
    fun w r q => row_unique, fun w e => decode_error⟩
  · rintro ⟨i, hi⟩
    exact ⟨i.row, i.row_mem_opcodeTable, row_selects_of_decode hi⟩
  · rintro ⟨r, hr, hs⟩
    exact decode_ok_of_selects hr hs

/-- Settles O8, by running the decoder on each word. -/
theorem writtenOutWordsDecode : Obligations.WrittenOutWordsDecode :=
  ⟨rfl, rfl, rfl, rfl, rfl, rfl, rfl, rfl, rfl, rfl, rfl⟩

end

end Sys2Proof
end

section
/-! The branches of the instructions that can stop, fault or block, and then what any instruction that answers a next
state can have done, said once (spec/40_dispatch_cycle.md R105). -/

namespace Sys2Proof.Machine

/-! ## The branches of CALL and RET, by SP (41_control_flow.md R121, R123) -/

section
variable {s : State}

theorem pred_toNat {sp : Byte} (h : 1 ≤ sp.toNat) : (sp - 1).toNat = sp.toNat - 1 := by bv_omega

theorem succ_toNat {sp : Byte} (h : sp.toNat < 16) : (sp + 1).toNat = sp.toNat + 1 := by bv_omega

theorem exec_call_push (nnn : Addr12) (h : s.SP.toNat < 16) :
    exec (.call nnn) s =
      .next ({ s.advance with stack := s.stack.set s.SP.toNat (s.PC + 2), SP := s.SP + 1 }.jumpTo (zext16 nnn)) := by
  have h16 : s.SP ≠ 16 := fun e => by simp [e] at h
  have hpush := State.push_eq s.advance (s.PC + 2) h
  simp only [exec, execCall, h16, if_false, State.advance_PC, hpush, State.advance_stack, State.advance_SP]

theorem exec_call_overflow (nnn : Addr12) (h : s.SP = 16) :
    exec (.call nnn) s = .next (s.raiseFatal .stackOverflow (encode (.call nnn))) := by
  simp only [exec, execCall, h, if_true]

theorem exec_call_fault (nnn : Addr12) (h : 16 < s.SP.toNat) : exec (.call nnn) s = .fault .stackPointerOutOfRange := by
  have h16 : s.SP ≠ 16 := fun e => by simp [e] at h
  have hpush : s.advance.push (s.PC + 2) = none := (State.push_none_iff _ _).mpr (by simpa using h.le)
  simp only [exec, execCall, h16, if_false, State.advance_PC, hpush]

theorem exec_ret_pop (h0 : s.SP ≠ 0) (h16 : (s.SP - 1).toNat < 16) :
    exec .ret s = .next { s.advance with SP := s.SP - 1, PC := s.stack[(s.SP - 1).toNat] } := by
  have hpop := State.popPC_eq s.advance h16
  simp only [exec, execRet, h0, if_false, hpop, State.advance_SP, State.advance_stack]

theorem exec_ret_underflow (h : s.SP = 0) :
    exec .ret s = .next (s.raiseFatal .stackUnderflow (encode .ret)) := by
  simp only [exec, execRet, h, if_true]

theorem exec_ret_fault (h : 16 < s.SP.toNat) : exec .ret s = .fault .stackPointerOutOfRange := by
  have h0 : s.SP ≠ 0 := fun e => by simp [e] at h
  have hpop : s.advance.popPC = none := (State.popPC_none_iff _).mpr (by rw [State.advance_SP, pred_toNat (by omega)]; omega)
  simp only [exec, execRet, h0, if_false, hpop]

/-! ## The branches of the key instructions (45_timers_keys.md R210 to R214) -/

theorem exec_skp_code {x : Reg} (h : (s.reg x).toNat < 16) :
    exec (.skp x) s = .next (s.advance.skipIf (isPressed s.keys ⟨(s.reg x).toNat, h⟩)) := by
  simp only [exec, execSkp, keyCode?_of_lt h]

theorem exec_skp_fatal {x : Reg} (h : 15 < (s.reg x).toNat) :
    exec (.skp x) s = .next (s.raiseFatal .keyCodeOutOfRange (encode (.skp x))) := by
  simp only [exec, execSkp, keyCode?_of_ge h]

theorem exec_sknp_code {x : Reg} (h : (s.reg x).toNat < 16) :
    exec (.sknp x) s = .next (s.advance.skipIf (!isPressed s.keys ⟨(s.reg x).toNat, h⟩)) := by
  simp only [exec, execSknp, keyCode?_of_lt h]

theorem exec_sknp_fatal {x : Reg} (h : 15 < (s.reg x).toNat) :
    exec (.sknp x) s = .next (s.raiseFatal .keyCodeOutOfRange (encode (.sknp x))) := by
  simp only [exec, execSknp, keyCode?_of_ge h]

theorem exec_ldVxK_store {k : KeyCode} (x : Reg) (h : selectKey s.cfg.keyPicks s.keys = some k) :
    exec (.ldVxK x) s = .next (s.advance.storeKey x k) := by
  simp only [exec, execLdVxK, h]

theorem exec_ldVxK_block (x : Reg) (h : selectKey s.cfg.keyPicks s.keys = none) :
    exec (.ldVxK x) s = .next (s.advance.block x) := by
  simp only [exec, execLdVxK, h]

end

/-! ## What an instruction can do -/

/-- When an instruction raises which of the spec's run-time fatal conditions (60_exceptions.md R231, R234, R235). -/
inductive FatalCase (s : State) : Instr → HaltCode → Prop where
  | overflow (nnn : Addr12) (h : s.SP = 16) : FatalCase s (.call nnn) .stackOverflow
  | underflow (h : s.SP = 0) : FatalCase s .ret .stackUnderflow
  | skp (x : Reg) (h : 15 < (s.reg x).toNat) : FatalCase s (.skp x) .keyCodeOutOfRange
  | sknp (x : Reg) (h : 15 < (s.reg x).toNat) : FatalCase s (.sknp x) .keyCodeOutOfRange

/-- The next states that the instruction can give from `s`, by the parts of the state that it writes. -/
inductive ExecEffect (s : State) : Instr → State → Prop where
  | registers {i : Instr} (V : Vector Byte 16) (hc : i.transfersControl = false)
      (hV : ∀ r : Reg, i.mayWrite r = false → V[r.val] = s.reg r) : ExecEffect s i { s.advance with V := V }
  | random (x : Reg) (kk : Byte) : ExecEffect s (.rnd x kk) (s.advance.takeDraw.setReg x (s.nextDraw &&& kk))
  | clear : ExecEffect s .cls (s.advance.setPixels FrameBuffer.clear)
  | draw (x y : Reg) (n : Height) (fb : FrameBuffer) (c : Bool) :
      ExecEffect s (.drw x y n) ((s.advance.setPixels fb).setFlag (flagOf c))
  | index {i : Instr} (v : Word16) (hi : (∃ nnn, i = .ldI nnn) ∨ (∃ x, i = .addI x) ∨ ∃ x, i = .ldF x) :
      ExecEffect s i (s.advance.setIndex v)
  | delay (x : Reg) : ExecEffect s (.ldDtVx x) (s.advance.setDelay (s.reg x))
  | sound (x : Reg) : ExecEffect s (.ldStVx x) (s.advance.setSound (s.reg x))
  | store {i : Instr} (bytes : List Byte) (hi : (∃ x, i = .ldB x) ∨ ∃ x, i = .storeRegs x) :
      ExecEffect s i (s.advance.storeBytes (s.indexed 0) bytes)
  | jump {i : Instr} (target : Word16) (hc : i.transfersControl = true) : ExecEffect s i (s.jumpTo target)
  | call (nnn : Addr12) (h : s.SP.toNat < 16) :
      ExecEffect s (.call nnn)
        ({ s.advance with stack := s.stack.set s.SP.toNat (s.PC + 2), SP := s.SP + 1 }.jumpTo (zext16 nnn))
  | ret (h0 : s.SP ≠ 0) (h16 : (s.SP - 1).toNat < 16) :
      ExecEffect s .ret { s.advance with SP := s.SP - 1, PC := s.stack[(s.SP - 1).toNat] }
  | block (x : Reg) : ExecEffect s (.ldVxK x) (s.advance.block x)
  | fatal {i : Instr} {code : HaltCode} (h : FatalCase s i code) : ExecEffect s i (s.raiseFatal code (encode i))

section
variable {s t : State} {i : Instr}

/-- A write of one register that the instruction names is an effect on registers. -/
theorem ExecEffect.setReg (x : Reg) (v : Byte) (hc : i.transfersControl = false) (hx : i.mayWrite x = true) :
    ExecEffect s i (s.advance.setReg x v) := by
  refine .registers _ hc fun r hr => ?_
  have hne : r ≠ x := fun e => by simp [e, hx] at hr
  exact State.reg_setReg_ne s.advance x r v hne

theorem ExecEffect.latched (f g : Byte → Byte → Byte) (x y : Reg) (hc : i.transfersControl = false)
    (hw : ∀ r, i.mayWrite r = (r == x || r == regF)) : ExecEffect s i (s.advance.latchedFlagThenResult f g x y) := by
  refine .registers _ hc fun r hr => ?_
  obtain ⟨hx, hF⟩ : r ≠ x ∧ r ≠ regF := by simpa [hw] using hr
  exact (State.reg_latchedFlagThenResult s.advance f g x y r).trans (by simp [hx, hF])

theorem ExecEffect.flagFirst (f g : Byte → Byte → Byte) (x y : Reg) (hc : i.transfersControl = false)
    (hw : ∀ r, i.mayWrite r = (r == x || r == regF)) : ExecEffect s i (s.advance.flagThenResult f g x y) := by
  refine .registers _ hc fun r hr => ?_
  obtain ⟨hx, hF⟩ : r ≠ x ∧ r ≠ regF := by simpa [hw] using hr
  exact (State.reg_flagThenResult s.advance f g x y r).trans (by simp [hx, hF])

/-- A block load of `x + 1` bytes leaves the registers above Vx. -/
theorem ExecEffect.loadBlock (x : Reg) (bytes : List Byte) (hl : bytes.length = x.val + 1) :
    ExecEffect s (.loadRegs x) (s.advance.loadBlock bytes) := by
  refine .registers _ rfl fun r hr => ?_
  have hlt : x < r := by simpa [Instr.mayWrite] using hr
  refine (State.reg_loadBlock s.advance bytes r).trans ?_
  rw [List.getD_eq_default _ _ (by rw [hl]; exact hlt)]
  rfl

/-- A skip is a jump by two or by four. -/
theorem ExecEffect.skip (c : Bool) (hc : i.transfersControl = true) : ExecEffect s i (s.advance.skipIf c) := by
  cases c
  · exact .jump _ hc
  · exact .jump _ hc

/-- Each instruction that answers a next state has one of the effects, by its own equation. -/
theorem exec_effect (h : exec i s = .next t) : ExecEffect s i t := by
  cases i with
  | cls => cases h; exact .clear
  | ret =>
    by_cases h0 : s.SP = 0
    · rw [exec_ret_underflow h0] at h; cases h; exact .fatal (.underflow h0)
    · by_cases h16 : s.SP.toNat ≤ 16
      · have hlt := pred_toNat_lt h0 h16
        rw [exec_ret_pop h0 hlt] at h; cases h; exact .ret h0 hlt
      · rw [exec_ret_fault (by omega)] at h; cases h
  | call nnn =>
    rcases lt_trichotomy s.SP.toNat 16 with hlt | heq | hgt
    · rw [exec_call_push nnn hlt] at h; cases h; exact .call nnn hlt
    · have h16 : s.SP = 16 := BitVec.eq_of_toNat_eq heq
      rw [exec_call_overflow nnn h16] at h; cases h; exact .fatal (.overflow nnn h16)
    · rw [exec_call_fault nnn hgt] at h; cases h
  | jp | jpV0 => cases h; exact .jump _ rfl
  | seImm | sneImm | seReg | sneReg => cases h; exact .skip _ rfl
  | ldImm | addImm | ldReg | orReg | andReg | xorReg | ldVxDt =>
    cases h; exact .setReg _ _ rfl (by simp [Instr.mayWrite])
  | addReg => cases h; exact .latched _ _ _ _ rfl fun _ => rfl
  | sub | shr | subn | shl => cases h; exact .flagFirst _ _ _ _ rfl fun _ => rfl
  | rnd => cases h; exact .random _ _
  | drw => cases h; exact .draw _ _ _ _ _
  | ldI => cases h; exact .index _ (.inl ⟨_, rfl⟩)
  | addI => cases h; exact .index _ (.inr (.inl ⟨_, rfl⟩))
  | ldF => cases h; exact .index _ (.inr (.inr ⟨_, rfl⟩))
  | ldDtVx => cases h; exact .delay _
  | ldStVx => cases h; exact .sound _
  | ldB => cases h; exact .store _ (.inl ⟨_, rfl⟩)
  | storeRegs => cases h; exact .store _ (.inr ⟨_, rfl⟩)
  | loadRegs => cases h; exact .loadBlock _ _ (State.readBytes_length _ _ _)
  | skp x =>
    by_cases hk : (s.reg x).toNat < 16
    · rw [exec_skp_code hk] at h; cases h; exact .skip _ rfl
    · have hk : 15 < (s.reg x).toNat := by omega
      rw [exec_skp_fatal hk] at h; cases h; exact .fatal (.skp x hk)
  | sknp x =>
    by_cases hk : (s.reg x).toNat < 16
    · rw [exec_sknp_code hk] at h; cases h; exact .skip _ rfl
    · have hk : 15 < (s.reg x).toNat := by omega
      rw [exec_sknp_fatal hk] at h; cases h; exact .fatal (.sknp x hk)
  | ldVxK x =>
    cases hk : selectKey s.cfg.keyPicks s.keys with
    | some k =>
      rw [exec_ldVxK_store x hk] at h; cases h; exact .setReg _ _ rfl (by simp [Instr.mayWrite])
    | none => rw [exec_ldVxK_block x hk] at h; cases h; exact .block x

end

end Sys2Proof.Machine
end

section
/-! Rules over every instruction, each read off the effects: which instruction writes which part, what a fatal condition
leaves, and when the model's own fault arises. -/

namespace Sys2Proof.Machine

section
variable {i : Instr} {s t : State}

/-! ## Which instruction writes which part (10_state.md R20 to R35) -/

theorem mayWrite_of_exec (h : exec i s = .next t) {r : Reg} (hne : t.reg r ≠ s.reg r) : i.mayWrite r = true := by
  cases exec_effect h with
  | registers V _ hV =>
    by_contra hw
    exact hne (hV r (by simpa using hw))
  | random x kk =>
    have hr : r = x := by
      by_contra hx
      exact hne (State.reg_setReg_ne _ _ _ _ hx)
    simp [Instr.mayWrite, hr]
  | draw x y n fb c =>
    have hr : r = regF := by
      by_contra hF
      exact hne (State.reg_setReg_ne _ _ _ _ hF)
    simp [Instr.mayWrite, hr]
  | _ => exact absurd rfl hne

theorem transfersControl_of_exec (h : exec i s = .next t) (hne : t.PC ≠ s.PC + 2) : i.transfersControl = true := by
  cases exec_effect h with
  | jump _ hc => exact hc
  | call | ret => rfl
  | fatal hf => cases hf <;> rfl
  | _ => exact absurd rfl hne

theorem mayEndRunnable_of_exec (h : exec i s = .next t) (hne : t.run ≠ s.run) : i.mayEndRunnable = true := by
  cases exec_effect h with
  | block => rfl
  | fatal hf => cases hf <;> rfl
  | _ => exact absurd rfl hne

theorem index_of_exec (h : exec i s = .next t) (hne : t.I ≠ s.I) :
    (∃ nnn, i = .ldI nnn) ∨ (∃ x, i = .addI x) ∨ ∃ x, i = .ldF x := by
  cases exec_effect h with
  | index _ hi => exact hi
  | _ => exact absurd rfl hne

theorem stack_of_exec (h : exec i s = .next t) (hne : t.stack ≠ s.stack) : ∃ nnn, i = .call nnn := by
  cases exec_effect h with
  | call nnn => exact ⟨nnn, rfl⟩
  | _ => exact absurd rfl hne

theorem stackPointer_of_exec (h : exec i s = .next t) (hne : t.SP ≠ s.SP) : i = .ret ∨ ∃ nnn, i = .call nnn := by
  cases exec_effect h with
  | call nnn => exact .inr ⟨nnn, rfl⟩
  | ret => exact .inl rfl
  | _ => exact absurd rfl hne

theorem delay_of_exec (h : exec i s = .next t) (hne : t.DT ≠ s.DT) : ∃ x, i = .ldDtVx x := by
  cases exec_effect h with
  | delay x => exact ⟨x, rfl⟩
  | _ => exact absurd rfl hne

theorem sound_of_exec (h : exec i s = .next t) (hne : t.ST ≠ s.ST) : ∃ x, i = .ldStVx x := by
  cases exec_effect h with
  | sound x => exact ⟨x, rfl⟩
  | _ => exact absurd rfl hne

theorem memory_of_exec (h : exec i s = .next t) (hne : t.mem ≠ s.mem) : (∃ x, i = .ldB x) ∨ ∃ x, i = .storeRegs x := by
  cases exec_effect h with
  | store _ hi => exact hi
  | _ => exact absurd rfl hne

theorem pixels_of_exec (h : exec i s = .next t) (hne : t.fb ≠ s.fb) : i = .cls ∨ ∃ x y n, i = .drw x y n := by
  cases exec_effect h with
  | clear => exact .inl rfl
  | draw x y n => exact .inr ⟨x, y, n, rfl⟩
  | _ => exact absurd rfl hne

theorem blocked_of_exec (h : exec i s = .next t) {x : Reg} (hx : t.run = .blocked x) :
    s.run = .blocked x ∨ i = .ldVxK x := by
  cases exec_effect h with
  | block => cases hx; exact .inr rfl
  | fatal => cases hx
  | _ => exact .inl hx

theorem hostScript_of_exec (h : exec i s = .next t) (hne : t.env ≠ s.env) : ∃ x kk, i = .rnd x kk := by
  cases exec_effect h with
  | random x kk => exact ⟨x, kk, rfl⟩
  | _ => exact absurd rfl hne

/-- The parts that no instruction writes: the host's and the scheduler's (60_exceptions.md R261, R266). -/
theorem exec_keeps_hostSide (h : exec i s = .next t) :
    t.tone = s.tone ∧ t.phase = s.phase ∧ t.keys = s.keys ∧ t.frame = s.frame ∧ t.cfg = s.cfg := by
  cases exec_effect h <;> exact ⟨rfl, rfl, rfl, rfl, rfl⟩

/-- Settles O53, one part at a time. -/
theorem onlyTheNamedInstructionsWriteEachPart : Obligations.OnlyTheNamedInstructionsWriteEachPart := by
  intro i s t h
  obtain ⟨htone, hphase, hkeys, hframe, hcfg⟩ := exec_keeps_hostSide h
  refine ⟨fun r => mayWrite_of_exec h, transfersControl_of_exec h, mayEndRunnable_of_exec h, index_of_exec h,
    stack_of_exec h, stackPointer_of_exec h, delay_of_exec h, sound_of_exec h, memory_of_exec h, pixels_of_exec h,
    fun x => blocked_of_exec h, hostScript_of_exec h, ?_⟩
  constructor <;> simp [htone, hphase, hkeys, hframe, hcfg]

/-- Settles O30: only an instruction that transfers control can leave PC elsewhere. -/
theorem ordinaryInstructionsAdvanceByTwo : Obligations.OrdinaryInstructionsAdvanceByTwo := by
  intro i s t hc h
  by_contra hne
  rw [transfersControl_of_exec h hne] at hc
  cases hc

/-! ## Fatal conditions (60_exceptions.md R233) -/

/-- An instruction halts a core that was not halted only by raising a fatal condition, in the case of its rule. -/
theorem exec_halted (h : exec i s = .next t) {r : HaltRecord} (hs : s.run.isHalted = false) (ht : t.run = .halted r) :
    ∃ code, FatalCase s i code ∧ t = s.raiseFatal code (encode i) := by
  cases exec_effect h with
  | fatal hf => exact ⟨_, hf, rfl⟩
  | block => cases ht
  | _ => exact absurd (hs.symm.trans (RunState.isHalted_of_eq_halted ht)) Bool.false_ne_true

/-- Settles O13: raising a fatal condition replaces the run state of the state before the fetch. -/
theorem fatalConditionsArePrecise : Obligations.FatalConditionsArePrecise := by
  intro i s t r hs h ht
  obtain ⟨code, -, rfl⟩ := exec_halted h (by rw [hs]; rfl) ht
  cases ht
  exact ⟨rfl, rfl, rfl, rfl⟩

/-! ## The model's own fault -/

/-- Every other instruction answers a next state. -/
theorem exec_next_of_not_stack (hret : i ≠ .ret) (hcall : ∀ nnn, i ≠ .call nnn) : ∃ t, exec i s = .next t := by
  cases i with
  | ret => exact absurd rfl hret
  | call nnn => exact absurd rfl (hcall nnn)
  | skp x =>
    by_cases hk : (s.reg x).toNat < 16
    · exact ⟨_, exec_skp_code hk⟩
    · exact ⟨_, exec_skp_fatal (by omega)⟩
  | sknp x =>
    by_cases hk : (s.reg x).toNat < 16
    · exact ⟨_, exec_sknp_code hk⟩
    · exact ⟨_, exec_sknp_fatal (by omega)⟩
  | ldVxK x =>
    cases hk : selectKey s.cfg.keyPicks s.keys with
    | some k => exact ⟨_, exec_ldVxK_store x hk⟩
    | none => exact ⟨_, exec_ldVxK_block x hk⟩
  | _ => exact ⟨_, rfl⟩

/-- With SP in 0..16 every instruction answers a next state. -/
theorem exec_next_of_sp_le (hsp : s.SP.toNat ≤ 16) : ∃ t, exec i s = .next t := by
  by_cases hret : i = .ret
  · rw [hret]
    by_cases h0 : s.SP = 0
    · exact ⟨_, exec_ret_underflow h0⟩
    · exact ⟨_, exec_ret_pop h0 (pred_toNat_lt h0 hsp)⟩
  by_cases hcall : ∃ nnn, i = .call nnn
  · obtain ⟨nnn, rfl⟩ := hcall
    rcases hsp.lt_or_eq with hlt | heq
    · exact ⟨_, exec_call_push nnn hlt⟩
    · exact ⟨_, exec_call_overflow nnn (BitVec.eq_of_toNat_eq heq)⟩
  · exact exec_next_of_not_stack hret (not_exists.mp hcall)

/-- CALL and RET fault with SP above 16. -/
theorem exec_fault_of_stack (hi : i = .ret ∨ ∃ nnn, i = .call nnn) (hsp : 16 < s.SP.toNat) :
    exec i s = .fault .stackPointerOutOfRange := by
  rcases hi with rfl | ⟨nnn, rfl⟩
  · exact exec_ret_fault hsp
  · exact exec_call_fault nnn hsp

/-- An instruction answers a next state, or it is CALL or RET with SP above 16 and faults. -/
theorem exec_next_or_fault (i : Instr) (s : State) :
    (∃ t, exec i s = .next t) ∨
      ((i = .ret ∨ ∃ nnn, i = .call nnn) ∧ 16 < s.SP.toNat ∧ exec i s = .fault .stackPointerOutOfRange) := by
  by_cases hsp : s.SP.toNat ≤ 16
  · exact .inl (exec_next_of_sp_le hsp)
  by_cases hi : i = .ret ∨ ∃ nnn, i = .call nnn
  · exact .inr ⟨hi, not_le.mp hsp, exec_fault_of_stack hi (not_le.mp hsp)⟩
  · rw [not_or, not_exists] at hi
    exact .inl (exec_next_of_not_stack hi.1 hi.2)

/-- Settles O27, from what an instruction answers. -/
theorem stackFaultOnlyAboveSixteen : Obligations.StackFaultOnlyAboveSixteen := by
  intro i s
  refine ⟨⟨fun h => ?_, fun ⟨hi, hsp⟩ => exec_fault_of_stack hi hsp⟩, fun r h => ?_⟩
  · rcases exec_next_or_fault i s with ⟨t, ht⟩ | ⟨hi, hsp, -⟩
    · rw [ht] at h; cases h
    · exact ⟨hi, hsp⟩
  · rcases exec_next_or_fault i s with ⟨t, ht⟩ | ⟨-, -, hf⟩
    · rw [ht] at h; cases h
    · rw [hf] at h; cases h

end

end Sys2Proof.Machine
end

section
/-! Slots and steps: what is fetched and run, the tick's start and end, and the poll (spec/40_dispatch_cycle.md R100 to
R108, spec/60_exceptions.md R237, R250 to R255). -/

namespace Sys2Proof.Machine

section
variable {s t u : State} {i : Instr} {left : Nat}

/-! ## The slot, by the run state -/

theorem isHalted_runnable (hs : s.run = .runnable) : s.run.isHalted = false := by rw [hs]; rfl

theorem isHalted_blocked {x : Reg} (hs : s.run = .blocked x) : s.run.isHalted = false := by rw [hs]; rfl

theorem slot_exec (hs : s.run = .runnable) (h : decode s.fetch = .ok i) : s.slot = exec i s := by
  simp only [State.slot, hs, State.dispatch, h]

theorem slot_unknown {e : Reject} (hs : s.run = .runnable) (h : decode s.fetch = .error e) :
    s.slot = .next (s.raiseFatal .unknownInstruction s.fetch) := by
  simp only [State.slot, hs, State.dispatch, h]

theorem slot_poll {x : Reg} (hs : s.run = .blocked x) : s.slot = .next (s.poll x) := by
  simp only [State.slot, hs]

theorem poll_store {x : Reg} {k : KeyCode} (h : selectKey s.cfg.keyPicks s.keys = some k) :
    s.poll x = (s.storeKey x k).setRun .runnable := by
  simp only [State.poll, h]

theorem poll_idle {x : Reg} (h : ∀ k, isPressed s.keys k = false) : s.poll x = s := by
  simp only [State.poll, (selectKey_none_iff _ _).mpr h]

/-- With a key down `select_key` gives one that is down. -/
theorem selectKey_some_of_pressed (picks : List (KeySet × KeyCode)) {keys : KeySet} {k : KeyCode}
    (h : isPressed keys k = true) : ∃ l, selectKey picks keys = some l ∧ isPressed keys l = true := by
  cases hl : selectKey picks keys with
  | some l => exact ⟨l, rfl, selectKey_pressed hl⟩
  | none => simp [(selectKey_none_iff _ _).mp hl k] at h

/-- Settles O11: no row selects the word, so the decoder refuses it. -/
theorem unknownWordHaltsAndWritesNothing : Obligations.UnknownWordHaltsAndWritesNothing :=
  fun _ hs h => slot_unknown hs (decode_error_of_unselected h)

/-! ## The step, by the phase -/

theorem step_startTick (hs : s.run.isHalted = false) (hp : s.phase = .between) : step s = .next s.startTick := by
  simp only [step, State.schedule, hs, hp]

theorem step_endTick (hs : s.run.isHalted = false) (hp : s.phase = .slots 0) : step s = .next s.endTick := by
  simp only [step, State.schedule, hs, hp]

theorem step_exec (hs : s.run = .runnable) (hp : s.phase = .slots (left + 1)) (h : decode s.fetch = .ok i) :
    step s = onNext (State.afterSlot left) (exec i s) := by
  rw [step_slot (isHalted_runnable hs) hp, slot_exec hs h]

theorem step_poll {x : Reg} (hs : s.run = .blocked x) (hp : s.phase = .slots (left + 1)) :
    step s = .next ((s.poll x).afterSlot left) := by
  rw [step_slot (isHalted_blocked hs) hp, slot_poll hs]
  rfl

/-! ## The fetch (R101) -/

theorem fetch_eq (s : State) :
    s.fetch = s.mem.read (s.PC.toNat % 4096) ++ s.mem.read ((s.PC.toNat + 1) % 4096) := by
  have h1 : physical (s.PC + 1) = (s.PC.toNat + 1) % 4096 := physical_add s.PC 1
  rw [← h1]
  rfl

/-- Settles O9: the bytes at PC are the fetched word. -/
theorem stepRunsTheDecodedInstruction : Obligations.StepRunsTheDecodedInstruction := by
  intro s left hi lo i hs hp hhi hlo h
  refine step_exec hs hp ?_
  rw [fetch_eq, hhi, hlo, h]

theorem bytes_join (w : Word16) : w.extractLsb' 8 8 ++ w.extractLsb' 0 8 = w :=
  (BitVec.extractLsb'_append_extractLsb'_eq_extractLsb' (by rfl : 8 = 0 + 8)).trans BitVec.extractLsb'_eq_self

/-- The first two of the bytes last stored, where they stand at PC, are what is fetched. -/
theorem fetch_of_writeBytes {m : Memory} {base : Word16} {b0 b1 : Byte} {rest : List Byte}
    (hl : rest.length + 2 ≤ 4096) (hm : s.mem = m.writeBytes base (b0 :: b1 :: rest))
    (ha : s.PC.toNat % 4096 = base.toNat % 4096) : s.fetch = b0 ++ b1 := by
  have h0 := m.read_writeBytes_at base (b0 :: b1 :: rest) hl 0 (by simp)
  have h1 := m.read_writeBytes_at base (b0 :: b1 :: rest) hl 1 (by simp)
  rw [← hm, physical_add] at h0 h1
  rw [fetch_eq, show s.PC.toNat % 4096 = (base.toNat + 0) % 4096 by omega, h0,
    show (s.PC.toNat + 1) % 4096 = (base.toNat + 1) % 4096 by omega, h1]
  rfl

theorem fetch_withFetchWord (s : State) (w : Word16) : (s.withFetchWord 16 w.toNat).fetch = w := by
  have hw : BitVec.ofNat 16 (w.toNat % 2 ^ 16) = w := by
    rw [Nat.mod_eq_of_lt w.isLt, BitVec.ofNat_toNat, BitVec.setWidth_eq]
  have h : (s.withFetchWord 16 w.toNat).fetch = w.extractLsb' 8 8 ++ w.extractLsb' 0 8 := by
    simp only [State.withFetchWord, hw]
    exact fetch_of_writeBytes (rest := []) (by decide) rfl rfl
  rw [h, bytes_join]

/-- Settles O10: the placed word is the fetched one, in a state that is ready to run it. -/
theorem placedWordIsRunNext : Obligations.PlacedWordIsRunNext := by
  intro s w i h
  exact step_exec rfl rfl (by rw [fetch_withFetchWord, h])

/-! ## The tick's start and end (60_exceptions.md R237, R250 to R255) -/

/-- Settles O19: the step is the closing phases. -/
theorem closingPhasesCountDownAndHandOver : Obligations.ClosingPhasesCountDownAndHandOver := by
  intro s hs hp
  refine ⟨_, step_endTick hs hp, countDown_toNat _, countDown_toNat _, by simp, rfl, rfl, ?_⟩
  constructor <;> simp

theorem startTick_begin (hc : s.nextInput.cancel = false) :
    s.startTick = s.takeInput.beginSlots s.nextInput.keys := by
  simp [State.startTick, hc]

theorem startTick_cancel (hc : s.nextInput.cancel = true) : s.startTick = s.takeInput.cancel := by
  simp [State.startTick, hc]

/-- Settles O20: the step is the tick start, on an input without cancellation. -/
theorem tickStartSamplesTheKeys : Obligations.TickStartSamplesTheKeys := by
  intro s hs hp hc
  refine ⟨s.takeInput.beginSlots s.nextInput.keys, ?_, rfl, rfl, rfl, rfl, rfl, rfl, ?_, ?_⟩
  · rw [step_startTick hs hp, startTick_begin hc]
  · constructor <;> simp
  · intro inp rest h
    simp [State.nextInput, h]

theorem cancel_runnable (hs : s.run = .runnable) : s.cancel = s.raiseFatal .cancelled 0 := by
  simp only [State.cancel, hs]

theorem cancel_blocked {x : Reg} (hs : s.run = .blocked x) :
    s.cancel = (s.jumpTo (s.PC - 2)).raiseFatal .cancelled (encode (.ldVxK x)) := by
  simp only [State.cancel, hs]

/-- Cancellation of a core that is not halted: one halt record, and at most PC besides (R237). -/
theorem cancel_eq (hs : s.run.isHalted = false) :
    ∃ pc op, s.cancel = (s.jumpTo pc).raiseFatal .cancelled op := by
  cases hr : s.run with
  | runnable => exact ⟨s.PC, 0, cancel_runnable hr⟩
  | blocked x => exact ⟨_, _, cancel_blocked hr⟩
  | halted r => rw [hr] at hs; cases hs

theorem encode_ldVxK_toNat (x : Reg) : (encode (.ldVxK x)).toNat = 0xF00A + 256 * x.val := by
  revert x; decide

/-- Settles O21: the step is the cancellation, which abandons a blocked Fx0A. -/
theorem cancellationAtATickStart : Obligations.CancellationAtATickStart := by
  intro s hp hc
  refine ⟨fun hs => ?_, fun x hs => ?_⟩
  · have hstep : step s = .next (s.takeInput.raiseFatal .cancelled 0) := by
      rw [step_startTick (isHalted_runnable hs) hp, startTick_cancel hc, cancel_runnable (s := s.takeInput) hs]
    refine ⟨_, hstep, rfl, ⟨rfl, rfl, rfl, rfl⟩, ?_⟩
    constructor <;> simp
  · have hstep : step s =
        .next ((s.takeInput.jumpTo (s.PC - 2)).raiseFatal .cancelled (encode (.ldVxK x))) := by
      rw [step_startTick (isHalted_blocked hs) hp, startTick_cancel hc, cancel_blocked (s := s.takeInput) hs]
      rfl
    refine ⟨_, hstep, rfl, fun _ => rfl, ⟨_, encode_ldVxK_toNat x, rfl⟩, ⟨rfl, rfl, rfl, rfl⟩, ?_⟩
    constructor <;> simp

/-! ## The poll of a blocked dispatcher (40_dispatch_cycle.md R107) -/

theorem keyCode_toNat (k : KeyCode) : (BitVec.ofNat 8 k.val).toNat = k.val := by
  rw [BitVec.toNat_ofNat]; omega

/-- A poll that stores `k` completes the key wait and uses one slot. -/
theorem step_poll_store {x : Reg} {k : KeyCode} (hs : s.run = .blocked x) (hp : s.phase = .slots (left + 1))
    (hk : selectKey s.cfg.keyPicks s.keys = some k) :
    ∃ t, step s = .next t ∧ (t.reg x).toNat = k.val ∧ t.run = .runnable ∧ t.phase = .slots left ∧
      KeepsRegsBut [x] s t ∧ KeepsAllBut [.V, .run, .phase] s t := by
  refine ⟨_, step_poll hs hp, ?_, ?_, ?_, ?_, ?_⟩ <;> rw [poll_store hk]
  · simp only [State.afterSlot_reg, State.setRun_reg, State.reg_storeKey, if_true, keyCode_toNat]
  · rfl
  · rfl
  · intro r hr
    simp [State.reg_storeKey, List.mem_singleton.not.mp hr]
  · constructor <;> simp

/-- Settles O22: with a key down the poll stores the choice, with none it changes nothing. -/
theorem pollCompletesTheKeyWait : Obligations.PollCompletesTheKeyWait := by
  intro s x left hs hp
  refine ⟨fun ⟨k, hk⟩ => ?_, fun h => ?_⟩
  · obtain ⟨l, hl, hdown⟩ := selectKey_some_of_pressed s.cfg.keyPicks hk
    obtain ⟨t, hstep, hreg, hrest⟩ := step_poll_store hs hp hl
    exact ⟨t, l, hstep, hdown, hreg, hrest⟩
  · refine ⟨_, step_poll hs hp, ?_, ?_⟩ <;> rw [poll_idle h]
    · simp [hs, phaseAfter]
    · constructor <;> simp

/-! ## What a slot keeps -/

/-- A poll keeps all but Vx and the run state, which it can only make runnable. -/
theorem poll_eq (s : State) (x : Reg) :
    ∃ V, s.poll x = { s with V := V } ∨ s.poll x = { s with V := V, run := .runnable } := by
  rcases s.poll_cases x with ⟨k, -, h⟩ | ⟨-, h⟩
  · exact ⟨_, .inr h⟩
  · exact ⟨s.V, .inl h⟩

/-- No slot writes what is the host's or the scheduler's. -/
theorem slot_keeps_hostSide (h : s.slot = .next u) :
    u.tone = s.tone ∧ u.phase = s.phase ∧ u.keys = s.keys ∧ u.frame = s.frame ∧ u.cfg = s.cfg := by
  rcases State.slot_cases h with ⟨-, i, -, hi⟩ | ⟨-, -, hu⟩ | ⟨x, -, hu⟩ | ⟨-, hu⟩
  · exact exec_keeps_hostSide hi
  · cases hu; exact ⟨rfl, rfl, rfl, rfl, rfl⟩
  · cases hu
    obtain ⟨V, hV | hV⟩ := poll_eq s x <;> rw [hV] <;> exact ⟨rfl, rfl, rfl, rfl, rfl⟩
  · cases hu; exact ⟨rfl, rfl, rfl, rfl, rfl⟩

/-- Settles O23, by the piece of the tick that the step is. -/
theorem hostSideChangesOnlyAtTickBoundaries : Obligations.HostSideChangesOnlyAtTickBoundaries := by
  intro s t h
  rcases step_cases h with ⟨-, rfl⟩ | ⟨hs, hp, rfl⟩ | ⟨-, hp, rfl⟩ | ⟨-, left, u, hp, hu, rfl⟩
  · simp
  · rcases s.startTick_cases with ⟨-, e⟩ | ⟨-, e⟩ <;> rw [e]
    · obtain ⟨pc, op, hcancel⟩ := cancel_eq (s := s.takeInput) hs
      simp [hcancel]
    · simp [hp]
  · simp [hp]
  · obtain ⟨htone, -, hkeys, hframe, hcfg⟩ := slot_keeps_hostSide hu
    simp [hp, htone, hkeys, hframe, hcfg]

end

end Sys2Proof.Machine
end

section
/-! What every step keeps: why a core halts, the invariant, and that the machine's steps are the spec's tick
(spec/60_exceptions.md R231 to R239, R250). -/

namespace Sys2Proof.Machine

section
variable {s t u : State} {i : Instr} {left : Nat}

/-! ## Why a core halts (60_exceptions.md R231, R272) -/

theorem poll_not_halted (hs : s.run.isHalted = false) (x : Reg) : (s.poll x).run.isHalted = false := by
  obtain ⟨V, hV | hV⟩ := poll_eq s x <;> rw [hV]
  · exact hs
  · rfl

/-- A slot that halts the core raised a fatal condition by the word it fetched. -/
theorem slot_halted (h : s.slot = .next u) (hs : s.run.isHalted = false) (hu : u.run.isHalted = true) :
    ∃ code, u = s.raiseFatal code s.fetch ∧ s.run = .runnable ∧
      ((code = .unknownInstruction ∧ ∃ e, decode s.fetch = .error e) ∨
        ∃ i, decode s.fetch = .ok i ∧ FatalCase s i code) := by
  rcases State.slot_cases h with ⟨hr, i, hd, hi⟩ | ⟨hr, hd, ho⟩ | ⟨x, -, ho⟩ | ⟨-, ho⟩
  · cases hrun : u.run with
    | halted r =>
      obtain ⟨code, hf, rfl⟩ := exec_halted hi hs hrun
      exact ⟨code, by rw [encode_of_decode hd], hr, .inr ⟨i, hd, hf⟩⟩
    | _ => rw [hrun] at hu; cases hu
  · cases ho; exact ⟨_, rfl, hr, .inl ⟨rfl, hd⟩⟩
  · cases ho; rw [poll_not_halted hs x] at hu; cases hu
  · cases ho; rw [hs] at hu; cases hu

/-- The case of each run-time code (R231). -/
theorem fatalCase_reason {code : HaltCode} (hd : decode s.fetch = .ok i) (hf : FatalCase s i code) :
    (code.number = 2 ∧ s.SP = 16 ∧ ∃ nnn, decode s.fetch = .ok (.call nnn)) ∨
      (code.number = 3 ∧ s.SP = 0 ∧ decode s.fetch = .ok .ret) ∨
        (code.number = 4 ∧
          ∃ x, 15 < (s.reg x).toNat ∧ (decode s.fetch = .ok (.skp x) ∨ decode s.fetch = .ok (.sknp x))) := by
  cases hf with
  | overflow nnn h => exact .inl ⟨rfl, h, nnn, hd⟩
  | underflow h => exact .inr (.inl ⟨rfl, h, hd⟩)
  | skp x h => exact .inr (.inr ⟨rfl, x, h, .inl hd⟩)
  | sknp x h => exact .inr (.inr ⟨rfl, x, h, .inr hd⟩)

/-- Settles O14: a tick start halts by cancellation, the closing phases never, a slot by a fatal condition. -/
theorem stepHaltsOnlyForANamedReason : Obligations.StepHaltsOnlyForANamedReason := by
  intro s t h hstep hs ht
  have hth := RunState.isHalted_of_eq_halted ht
  rcases step_cases hstep with ⟨hs', -⟩ | ⟨-, hp, rfl⟩ | ⟨-, -, rfl⟩ | ⟨-, left, u, hp, hu, rfl⟩
  · rw [hs] at hs'; cases hs'
  · rcases s.startTick_cases with ⟨hc, e⟩ | ⟨-, e⟩ <;> rw [e] at ht hth ⊢
    · obtain ⟨pc, op, hcancel⟩ := cancel_eq (s := s.takeInput) hs
      rw [hcancel] at ht ⊢
      cases ht
      exact ⟨hp, .inl ⟨hp, hc, rfl⟩⟩
    · exact absurd (hs.symm.trans hth) Bool.false_ne_true
  · exact absurd (hs.symm.trans hth) Bool.false_ne_true
  · obtain ⟨code, rfl, hr, hwhy⟩ := slot_halted hu hs hth
    cases ht
    refine ⟨rfl, .inr ⟨hr, ⟨left, hp⟩, rfl, rfl, rfl, ?_⟩⟩
    rcases hwhy with ⟨rfl, e, hd⟩ | ⟨i, hd, hf⟩
    · exact .inl ⟨rfl, unselected_of_decode_error hd⟩
    · exact .inr (fatalCase_reason hd hf)

/-! ## The invariant -/

theorem exec_keeps_memory_wf (h : exec i s = .next t) (hm : s.mem.wf) : t.mem.wf := by
  cases exec_effect h with
  | store bytes => exact State.storeBytes_wf hm _ bytes
  | _ => exact hm

/-- CALL raises SP only from below 16 and RET lowers it only from above 0 (10_state.md R28). -/
theorem exec_keeps_sp_le (h : exec i s = .next t) (hsp : s.SP.toNat ≤ 16) : t.SP.toNat ≤ 16 := by
  cases exec_effect h with
  | call nnn hlt => exact (succ_toNat hlt).trans_le hlt
  | ret h0 hlt => exact hlt.le
  | _ => exact hsp

theorem slot_keeps_memory_wf (h : s.slot = .next u) (hm : s.mem.wf) : u.mem.wf := by
  rcases State.slot_cases h with ⟨-, i, -, hi⟩ | ⟨-, -, hu⟩ | ⟨x, -, hu⟩ | ⟨-, hu⟩
  · exact exec_keeps_memory_wf hi hm
  · cases hu; exact hm
  · cases hu
    obtain ⟨V, hV | hV⟩ := poll_eq s x <;> rw [hV] <;> exact hm
  · cases hu; exact hm

theorem slot_keeps_sp_le (h : s.slot = .next u) (hsp : s.SP.toNat ≤ 16) : u.SP.toNat ≤ 16 := by
  rcases State.slot_cases h with ⟨-, i, -, hi⟩ | ⟨-, -, hu⟩ | ⟨x, -, hu⟩ | ⟨-, hu⟩
  · exact exec_keeps_sp_le hi hsp
  · cases hu; exact hsp
  · cases hu
    obtain ⟨V, hV | hV⟩ := poll_eq s x <;> rw [hV] <;> exact hsp
  · cases hu; exact hsp

theorem not_halted_ne {r : RunState} (h : r.isHalted = false) (rec : HaltRecord) : r ≠ .halted rec := by
  rintro rfl; cases h

/-- A tick start gives a good state, cancelled or not. -/
theorem startTick_keeps_inv (h : s.Inv) (hs : s.run.isHalted = false) (hp : s.phase = .between) : s.startTick.Inv := by
  rcases s.startTick_cases with ⟨-, e⟩ | ⟨-, e⟩ <;> rw [e]
  · obtain ⟨pc, op, hcancel⟩ := cancel_eq (s := s.takeInput) hs
    rw [hcancel]
    exact ⟨h.spLegal, h.memCanonical, h.speedPositive, h.slotsBounded,
      fun r hr => by cases hr; exact ⟨rfl, rfl, hp⟩, nofun⟩
  · exact ⟨h.spLegal, h.memCanonical, h.speedPositive, fun left hl => by cases hl; exact le_rfl,
      fun r hr => absurd hr (not_halted_ne hs r), nofun⟩

/-- The closing phases give a good state: they latch the tone that belongs to the new ST. -/
theorem endTick_keeps_inv (h : s.Inv) (hs : s.run.isHalted = false) : s.endTick.Inv :=
  ⟨h.spLegal, h.memCanonical, h.speedPositive, nofun, fun r hr => absurd hr (not_halted_ne hs r), fun _ _ => rfl⟩

/-- What the slot's end makes of the phase. -/
theorem phaseAfter_slots_le {n : Nat} (r : RunState) (h : phaseAfter left r = .slots n) : n ≤ left := by
  cases r with
  | halted => cases h
  | blocked => cases h; exact Nat.zero_le _
  | runnable => cases h; exact le_rfl

theorem phaseAfter_between {r : RunState} (h : phaseAfter left r = .between) : r.isHalted = true := by
  cases r with
  | halted => rfl
  | blocked | runnable => cases h

/-- A slot gives a good state: it halts precisely if at all, and otherwise the tick goes on. -/
theorem slot_keeps_inv (h : s.Inv) (hs : s.run.isHalted = false) (hp : s.phase = .slots (left + 1))
    (hu : s.slot = .next u) : (u.afterSlot left).Inv := by
  obtain ⟨-, -, -, -, hcfg⟩ := slot_keeps_hostSide hu
  refine ⟨slot_keeps_sp_le (u := u) hu h.spLegal, slot_keeps_memory_wf (u := u) hu h.memCanonical, ?_,
    fun n hn => ?_, fun r hr => ?_, fun hb hn => ?_⟩
  · rw [State.afterSlot_cfg, hcfg]; exact h.speedPositive
  · have hle : n ≤ left := phaseAfter_slots_le u.run hn
    have hbound := h.slotsBounded _ hp
    rw [State.afterSlot_cfg, hcfg]
    omega
  · obtain ⟨code, rfl, -⟩ := slot_halted hu hs (RunState.isHalted_of_eq_halted hr)
    cases hr
    exact ⟨rfl, rfl, rfl⟩
  · exact absurd (hn.symm.trans (phaseAfter_between hb)) Bool.false_ne_true

/-- Settles O15, by the piece of the tick that the step is. -/
theorem everyStepKeepsTheInvariant : Obligations.EveryStepKeepsTheInvariant := by
  intro s t h hstep
  rcases step_cases hstep with ⟨-, rfl⟩ | ⟨hs, hp, rfl⟩ | ⟨hs, -, rfl⟩ | ⟨hs, left, u, hp, hu, rfl⟩
  · exact h
  · exact startTick_keeps_inv h hs hp
  · exact endTick_keeps_inv h hs
  · exact slot_keeps_inv h hs hp hu

theorem reset_inv : State.reset.Inv :=
  ⟨by decide, State.reset_mem_wf, Nat.succ_le_succ (Nat.zero_le _), nofun, nofun, fun _ _ => rfl⟩

/-- Settles O16: a boot only replaces the configuration and stores bytes. -/
theorem invariantHoldsAfterBoot : Obligations.InvariantHoldsAfterBoot := by
  refine ⟨reset_inv, fun font cfg image t hcfg hboot => ?_⟩
  cases image with
  | none => cases hboot
  | some bytes =>
    simp only [boot, State.loadProgram] at hboot
    split at hboot <;> cases hboot
    have hfont : (Memory.ofFont font).wf := Memory.writeBytes_wf State.reset_mem_wf 0 font.toList
    exact ⟨reset_inv.spLegal, State.storeBytes_wf hfont _ bytes, hcfg, nofun, nofun, fun _ _ => rfl⟩

/-! ## Progress -/

theorem slot_next (hsp : s.SP.toNat ≤ 16) : ∃ u, s.slot = .next u := by
  cases hr : s.run with
  | runnable =>
    cases hd : decode s.fetch with
    | ok i => rw [slot_exec hr hd]; exact exec_next_of_sp_le hsp
    | error e => exact ⟨_, slot_unknown hr hd⟩
  | blocked x => exact ⟨_, slot_poll hr⟩
  | halted r => exact ⟨s, by simp only [State.slot, hr]⟩

/-- Settles O17: only a slot could stop, and it stops only with SP above 16. -/
theorem goodStatesAlwaysStep : Obligations.GoodStatesAlwaysStep := by
  intro s h
  cases hs : s.run.isHalted with
  | true => exact ⟨s, step_of_isHalted hs⟩
  | false =>
    cases hp : s.phase with
    | between => exact ⟨_, step_startTick hs hp⟩
    | slots n =>
      cases n with
      | zero => exact ⟨_, step_endTick hs hp⟩
      | succ left =>
        obtain ⟨u, hu⟩ := slot_next h.spLegal
        exact ⟨u.afterSlot left, by rw [step_slot hs hp, hu]; rfl⟩

end

end Sys2Proof.Machine
end

section
/-! The machine's steps make up the spec's whole tick (spec/60_exceptions.md R250). The spec's tick runs its slots with
no phase in the state; the machine keeps the count of slots left in the phase, which no slot reads. -/

namespace Sys2Proof.Machine

/-- The state with the scheduler at another place of the tick. -/
def State.withPhase (p : Phase) (s : State) : State := { s with phase := p }

section
variable {s t : State}

/-! ## No slot reads the phase -/

theorem withPhase_self {p : Phase} (hp : s.phase = p) : s.withPhase p = s := by rw [← hp]; rfl

theorem skipIf_withPhase (c : Bool) (p : Phase) (s : State) :
    (s.withPhase p).advance.skipIf c = (s.advance.skipIf c).withPhase p := by
  cases c <;> rfl

theorem readBytes_withPhase (p : Phase) (s : State) (base : Word16) (n : Nat) :
    (s.withPhase p).readBytes base n = s.readBytes base n := by
  induction n generalizing base with
  | zero => rfl
  | succ n ih => exact congrArg (s.readMem base :: ·) (ih (base + 1))

theorem exec_drw (x y : Reg) (n : Height) (s : State) :
    exec (.drw x y n) s =
      let drawn := drawSprite s.cfg.wrapY (s.reg y).toNat (s.reg x).toNat (s.readBytes (s.indexed 0) n.val) s.fb
      .next ((s.advance.setPixels drawn.1).setFlag (flagOf drawn.2)) := rfl

theorem exec_loadRegs (x : Reg) (s : State) :
    exec (.loadRegs x) s = .next (s.advance.loadBlock (s.readBytes (s.indexed 0) (x.val + 1))) := rfl

theorem exec_withPhase (i : Instr) (p : Phase) (s : State) :
    exec i (s.withPhase p) = onNext (State.withPhase p) (exec i s) := by
  cases i with
  | ret =>
    by_cases h0 : s.SP = 0
    · rw [exec_ret_underflow h0, exec_ret_underflow (s := s.withPhase p) h0]; rfl
    · by_cases h16 : s.SP.toNat ≤ 16
      · have hlt := pred_toNat_lt h0 h16
        rw [exec_ret_pop h0 hlt, exec_ret_pop (s := s.withPhase p) h0 hlt]; rfl
      · have hgt := not_le.mp h16
        rw [exec_ret_fault hgt, exec_ret_fault (s := s.withPhase p) hgt]; rfl
  | call nnn =>
    rcases lt_trichotomy s.SP.toNat 16 with hlt | heq | hgt
    · rw [exec_call_push nnn hlt, exec_call_push (s := s.withPhase p) nnn hlt]; rfl
    · have h16 : s.SP = 16 := BitVec.eq_of_toNat_eq heq
      rw [exec_call_overflow nnn h16, exec_call_overflow (s := s.withPhase p) nnn h16]; rfl
    · rw [exec_call_fault nnn hgt, exec_call_fault (s := s.withPhase p) nnn hgt]; rfl
  | seImm | sneImm | seReg | sneReg => exact congrArg Host.Outcome.next (skipIf_withPhase _ p s)
  | skp x =>
    by_cases hk : (s.reg x).toNat < 16
    · rw [exec_skp_code hk, exec_skp_code (s := s.withPhase p) hk]
      exact congrArg Host.Outcome.next (skipIf_withPhase _ p s)
    · have hk : 15 < (s.reg x).toNat := by omega
      rw [exec_skp_fatal hk, exec_skp_fatal (s := s.withPhase p) hk]; rfl
  | sknp x =>
    by_cases hk : (s.reg x).toNat < 16
    · rw [exec_sknp_code hk, exec_sknp_code (s := s.withPhase p) hk]
      exact congrArg Host.Outcome.next (skipIf_withPhase _ p s)
    · have hk : 15 < (s.reg x).toNat := by omega
      rw [exec_sknp_fatal hk, exec_sknp_fatal (s := s.withPhase p) hk]; rfl
  | ldVxK x =>
    cases hk : selectKey s.cfg.keyPicks s.keys with
    | some k => rw [exec_ldVxK_store x hk, exec_ldVxK_store (s := s.withPhase p) x hk]; rfl
    | none => rw [exec_ldVxK_block x hk, exec_ldVxK_block (s := s.withPhase p) x hk]; rfl
  | drw x y n => rw [exec_drw, exec_drw, readBytes_withPhase]; rfl
  | loadRegs x => rw [exec_loadRegs, exec_loadRegs, readBytes_withPhase]; rfl
  | _ => rfl

theorem poll_withPhase (x : Reg) (p : Phase) (s : State) : (s.withPhase p).poll x = (s.poll x).withPhase p := by
  cases hk : selectKey s.cfg.keyPicks s.keys with
  | some k => rw [poll_store hk, poll_store (s := s.withPhase p) hk]; rfl
  | none =>
    have hup := (selectKey_none_iff _ _).mp hk
    rw [poll_idle hup, poll_idle (s := s.withPhase p) hup]

theorem slot_withPhase (p : Phase) (s : State) : (s.withPhase p).slot = onNext (State.withPhase p) s.slot := by
  cases hr : s.run with
  | runnable =>
    cases hd : decode s.fetch with
    | ok i => rw [slot_exec hr hd, slot_exec (s := s.withPhase p) hr hd, exec_withPhase]
    | error e => rw [slot_unknown hr hd, slot_unknown (s := s.withPhase p) hr hd]; rfl
  | blocked x =>
    rw [slot_poll hr, slot_poll (s := s.withPhase p) hr, poll_withPhase]; rfl
  | halted r => simp only [State.slot, State.withPhase, hr, onNext]

/-! ## The slots of a tick, and its closing phases -/

/-- What a tick does with the outcome of its slots (R250, R256). -/
def closeTick : Result → Result
  | .next t => if t.run.isHalted then .next t else .next t.endTick
  | .fault r => .fault r
  | .refused r => .refused r

theorem closeTick_halted (ht : t.run.isHalted = true) : closeTick (.next t) = .next t := if_pos ht

theorem closeTick_running (ht : t.run.isHalted = false) : closeTick (.next t) = .next t.endTick :=
  if_neg (by rw [ht]; exact Bool.false_ne_true)

theorem tick_halted (hs : s.run.isHalted = true) : tick s = .next s := if_pos hs

theorem tick_cancel (hs : s.run.isHalted = false) (hc : s.nextInput.cancel = true) :
    tick s = .next s.takeInput.cancel := by
  simp only [tick, hs, hc, Bool.false_eq_true, if_false, if_true]

theorem tick_slots (hs : s.run.isHalted = false) (hc : s.nextInput.cancel = false) :
    tick s = closeTick (slotsOf s.cfg.speed { s.takeInput with keys := s.nextInput.keys }) := by
  simp only [tick, hs, hc, Bool.false_eq_true, if_false]
  cases slotsOf s.cfg.speed { s.takeInput with keys := s.nextInput.keys } <;> rfl

theorem core_run_one {s : State} {o : Result} (h : step s = o) : Host.Core.run Sys2Proof.core 1 s = o := by
  have hcore : Sys2Proof.core.step s = o := h
  simp only [Host.Core.run, hcore]
  cases o <;> rfl

/-- With no slot left, one step closes the tick. -/
theorem core_run_closing (hs : s.run.isHalted = false) :
    Host.Core.run Sys2Proof.core 1 (s.withPhase (.slots 0)) = closeTick (.next s) := by
  rw [closeTick_running hs]
  exact core_run_one (step_endTick (s := s.withPhase (.slots 0)) hs rfl)

/-- The step that runs a slot: the slot of the state between ticks, and then the slot's end. -/
theorem step_withPhase_slots (k : Nat) (hs : s.run.isHalted = false) :
    step (s.withPhase (.slots (k + 1))) = onNext (fun t => t.withPhase (phaseAfter k t.run)) s.slot := by
  rw [step_slot (s := s.withPhase (.slots (k + 1))) hs rfl, slot_withPhase]
  cases s.slot <;> rfl

/-- From a state with `k` slots left, at most `k + 1` steps do what is left of the spec's tick: by induction on `k`, one
step per slot, until the slots are used up, the dispatcher blocks or the core halts. -/
theorem core_run_slots (k : Nat) (s : State) (hs : s.run.isHalted = false) (hp : s.phase = .between) :
    ∃ n ≤ k + 1, Host.Core.run Sys2Proof.core n (s.withPhase (.slots k)) = closeTick (slotsOf k s) := by
  induction k generalizing s with
  | zero => exact ⟨1, le_rfl, core_run_closing hs⟩
  | succ k ih =>
    have hstep := step_withPhase_slots k hs
    unfold slotsOf
    cases hslot : s.slot with
    | fault r => rw [hslot] at hstep; exact ⟨1, by omega, core_run_one hstep⟩
    | refused r => rw [hslot] at hstep; exact ⟨1, by omega, core_run_one hstep⟩
    | next t =>
      obtain ⟨-, hphase, -⟩ := slot_keeps_hostSide hslot
      have htp : t.phase = .between := hphase.trans hp
      rw [hslot] at hstep
      cases hr : t.run with
      | runnable =>
        obtain ⟨n, hn, hrun⟩ := ih t (isHalted_runnable hr) htp
        have hnext : step (s.withPhase (.slots (k + 1))) = .next (t.withPhase (.slots k)) := by
          rw [hstep, onNext, hr]; rfl
        exact ⟨n + 1, by omega, (core_run_succ_of_step n hnext).trans (by simpa only [hr] using hrun)⟩
      | blocked x =>
        have hnext : step (s.withPhase (.slots (k + 1))) = .next (t.withPhase (.slots 0)) := by
          rw [hstep, onNext, hr]; rfl
        refine ⟨2, by omega, (core_run_succ_of_step 1 hnext).trans ?_⟩
        simpa only [hr] using core_run_closing (isHalted_blocked hr)
      | halted r =>
        have hh := RunState.isHalted_of_eq_halted hr
        have hnext : step (s.withPhase (.slots (k + 1))) = .next t := by
          rw [hstep, onNext, hr]; exact congrArg Host.Outcome.next (withPhase_self htp)
        refine ⟨1, by omega, (core_run_one hnext).trans ?_⟩
        simp only [hr]
        exact (closeTick_halted hh).symm

/-- Settles O18: no step when halted, one to cancel, and otherwise the tick start, the slots and the closing phases. -/
theorem stepsMakeUpTheSpecsTick : Obligations.StepsMakeUpTheSpecsTick := by
  intro s hp
  cases hs : s.run.isHalted with
  | true => exact ⟨0, Nat.zero_le _, (tick_halted hs).symm⟩
  | false =>
    have hstep := step_startTick hs hp
    cases hc : s.nextInput.cancel with
    | true =>
      rw [startTick_cancel hc] at hstep
      exact ⟨1, by omega, (core_run_one hstep).trans (tick_cancel hs hc).symm⟩
    | false =>
      rw [startTick_begin hc] at hstep
      obtain ⟨n, hn, hrun⟩ := core_run_slots s.cfg.speed { s.takeInput with keys := s.nextInput.keys } hs hp
      refine ⟨n + 1, by omega, (core_run_succ_of_step n hstep).trans ?_⟩
      rw [tick_slots hs hc, ← hrun]
      rfl

end

end Sys2Proof.Machine
end

section
/-! Reset, program load and boot: which bytes stand where, and that nothing but memory is written
(spec/70_reset_and_hazards.md R280 to R283). -/

namespace Sys2Proof.Machine

/-- Below the end of the address space the reduction of an address is no change (20_memory.md R52). -/
theorem physical_of_lt (base : Word16) (k : Nat) (h : base.toNat + k < 4096) :
    physical (base + BitVec.ofNat 16 k) = base.toNat + k := by
  rw [physical_add, Nat.mod_eq_of_lt h]

/-- A run of bytes that ends in the address space stands at consecutive addresses. -/
theorem read_writeBytes_offset (m : Memory) (base : Word16) (bytes : List Byte) (hl : base.toNat + bytes.length ≤ 4096)
    (k : Nat) (hk : k < bytes.length) : (m.writeBytes base bytes).read (base.toNat + k) = bytes[k] := by
  rw [← physical_of_lt base k (by omega)]
  exact m.read_writeBytes_at base bytes (le_trans (Nat.le_add_left _ _) hl) k hk

/-- Such a run leaves the addresses below and above it alone. -/
theorem read_writeBytes_beside (m : Memory) (base : Word16) (bytes : List Byte) (hl : base.toNat + bytes.length ≤ 4096)
    (a : Nat) (ha : a < base.toNat ∨ base.toNat + bytes.length ≤ a) : (m.writeBytes base bytes).read a = m.read a := by
  refine m.read_writeBytes_outside base bytes a fun k hk => ?_
  rw [physical_of_lt base k (by omega)]
  omega

/-! ## Reset -/

/-- Settles O1, field by field. -/
theorem resetGivesTheSpecifiedRegisters : Obligations.ResetGivesTheSpecifiedRegisters :=
  ⟨fun _ => Vector.getElem_replicate _, rfl, rfl, rfl, fun _ => Vector.getElem_replicate _, rfl, rfl,
    fun r c => pixelAt_clear (r, c), rfl, rfl, rfl, rfl, Nat.succ_le_succ (Nat.zero_le _)⟩

theorem read_ofFont_font (font : Vector Byte 80) {a : Nat} (h : a < 80) : (Memory.ofFont font).read a = font[a] := by
  have hfont := read_writeBytes_offset [] 0 font.toList (by simp) a (by simpa using h)
  rw [show (0 : Word16).toNat + a = a from Nat.zero_add a] at hfont
  exact hfont.trans (Vector.getElem_toList _)

theorem read_ofFont_above (font : Vector Byte 80) {a : Nat} (h : 80 ≤ a) : (Memory.ofFont font).read a = 0 := by
  have hout : (Memory.ofFont font).read a = Memory.fill a :=
    read_writeBytes_beside [] 0 font.toList (by simp) a (.inr (by simpa using h))
  rw [hout, Memory.fill, dif_neg (not_lt.mpr h)]

theorem readMem_resetWith (font : Vector Byte 80) (cfg : SessionConfig) (a : Word16) :
    (State.resetWith font cfg).readMem a = (Memory.ofFont font).read (physical a) := rfl

/-- Settles O2: writing the font into empty memory, and that empty memory already reads as the default font. -/
theorem resetMemoryHoldsTheFont : Obligations.ResetMemoryHoldsTheFont := by
  refine ⟨fun font cfg a => ⟨read_ofFont_font font, read_ofFont_above font⟩, fun a => ?_⟩
  have hreset : State.reset.readMem a = Memory.fill (physical a) := rfl
  rw [hreset, readMem_resetWith]
  by_cases h : physical a < 80
  · rw [read_ofFont_font _ h, Memory.fill, dif_pos h]
  · rw [read_ofFont_above _ (not_lt.mp h), Memory.fill, dif_neg h]

/-! ## Program load and boot -/

theorem loadProgram_ok {bytes : List Byte} (s : State) (h : bytes.length ≤ 3584) :
    s.loadProgram bytes = .ok (s.storeBytes Config.progBase bytes) :=
  if_neg (not_lt.mpr h)

theorem loadProgram_error {bytes : List Byte} (s : State) (h : 3584 < bytes.length) :
    s.loadProgram bytes = .error (loadFailure .programTooLarge) :=
  if_pos h

theorem keepsAllBut_storeBytes (s : State) (base : Word16) (bytes : List Byte) :
    KeepsAllBut [.mem] s (s.storeBytes base bytes) := by
  constructor <;> simp

/-- Settles O3: the bytes fill the addresses from 0x200 on, up to the end of the address space at the most. -/
theorem loadProgramCopiesVerbatimOrRefuses : Obligations.LoadProgramCopiesVerbatimOrRefuses := by
  intro bytes s
  refine ⟨fun h => ?_, loadProgram_error s⟩
  have hl : Config.progBase.toNat + bytes.length ≤ 4096 := by
    have hbase : Config.progBase.toNat = 512 := rfl
    omega
  exact ⟨_, loadProgram_ok s h, keepsAllBut_storeBytes s _ bytes, read_writeBytes_offset s.mem _ bytes hl,
    fun a _ => read_writeBytes_beside s.mem _ bytes hl a⟩

theorem boot_some (font : Vector Byte 80) (cfg : SessionConfig) (bytes : List Byte) :
    boot font cfg (some bytes) = (State.resetWith font cfg).loadProgram bytes := rfl

/-- A boot that succeeds is a reset and then the store of an image. -/
theorem boot_ok {font : Vector Byte 80} {cfg : SessionConfig} {image : Option (List Byte)} {t : State}
    (h : boot font cfg image = .ok t) : ∃ bytes, t = (State.resetWith font cfg).storeBytes Config.progBase bytes := by
  cases image with
  | none => cases h
  | some bytes =>
    refine ⟨bytes, ?_⟩
    rcases le_or_gt bytes.length 3584 with hl | hl
    · rw [boot_some, loadProgram_ok _ hl] at h; cases h; rfl
    · rw [boot_some, loadProgram_error _ hl] at h; cases h

/-- Settles O4: the first fetch is at 0x200, where the program's first two bytes were stored. -/
theorem bootFetchesTheFirstWordOfTheProgram : Obligations.BootFetchesTheFirstWordOfTheProgram := by
  intro font cfg b0 b1 rest
  refine ⟨fun h => ?_, fun h => ?_, ⟨_, rfl, rfl⟩, fun image t h => ?_⟩
  · have hl : (b0 :: b1 :: rest).length ≤ 3584 := by simp only [List.length_cons]; omega
    exact ⟨_, loadProgram_ok _ hl, fetch_of_writeBytes (by omega) rfl rfl, keepsAllBut_storeBytes _ _ _⟩
  · have hl : 3584 < (b0 :: b1 :: rest).length := by simp only [List.length_cons]; omega
    exact ⟨_, loadProgram_error _ hl, rfl⟩
  · obtain ⟨bytes, rfl⟩ := boot_ok h
    refine ⟨rfl, ?_⟩
    constructor <;> simp [State.resetWith]

end Sys2Proof.Machine
end

section
/-! Returns, calls, compares and key skips (spec/41_control_flow.md R121 to R127, spec/45_timers_keys.md R210 to R212). -/

namespace Sys2Proof.Machine

section
variable {s : State}

/-! ## Halting on a fatal condition (60_exceptions.md R233) -/

theorem haltsOnly_of_exec_eq {i : Instr} {code : HaltCode} {op : Word16}
    (h : exec i s = .next (s.raiseFatal code op)) : HaltsOnly (exec i s) s code op := by
  refine ⟨_, h, rfl, ?_⟩
  constructor <;> simp

/-! ## RET and CALL -/

/-- Settles O24, from the two branches of RET. -/
theorem returnPopsTheStack : Obligations.ReturnPopsTheStack := by
  refine ⟨encodedAs_row _, fun s => ⟨fun h1 h16 => ?_, fun h0 => haltsOnly_of_exec_eq (exec_ret_underflow h0)⟩⟩
  have h0 : s.SP ≠ 0 := fun e => by simp [e] at h1
  have hpred := pred_toNat h1
  have hlt : (s.SP - 1).toNat < 16 := by omega
  refine ⟨_, exec_ret_pop h0 hlt, hpred, ?_, ?_⟩
  · rw [← hpred]
    exact Vector.getElem?_eq_getElem hlt
  · constructor <;> simp [State.readMem]

theorem encode_call_toNat (nnn : Addr12) : (encode (.call nnn)).toNat = 0x2000 + nnn.toNat := by
  have h : (encode (.call nnn)).toNat = 0x2 <<< 12 ||| nnn.toNat := BitVec.toNat_append _ _
  rw [h, ← Nat.shiftLeft_add_eq_or_of_lt nnn.isLt]
  rfl

theorem zext16_toNat (nnn : Addr12) : (zext16 nnn).toNat = nnn.toNat := BitVec.toNat_setWidth_of_le (by decide)

/-- Settles O25, from the two branches of CALL. -/
theorem callPushesTheReturnAddress : Obligations.CallPushesTheReturnAddress := by
  refine fun nnn => ⟨encodedAs_row _, fun s => ⟨fun hlt => ?_, fun h16 => ?_⟩⟩
  · refine ⟨_, exec_call_push nnn hlt, zext16_toNat nnn, succ_toNat hlt, ?_, fun j hj => ?_, ?_⟩
    · simp
    · exact Vector.getElem?_set_ne hlt (Ne.symm hj)
    · constructor <;> simp [State.readMem]
  · exact ⟨_, encode_call_toNat nnn, haltsOnly_of_exec_eq (exec_call_overflow nnn (BitVec.eq_of_toNat_eq h16))⟩

/-- Settles O26: RET reads the entry that CALL pushed, since SP is one more and then one less. -/
theorem callThenReturnComesBack : Obligations.CallThenReturnComesBack := by
  intro nnn s hlt
  have hsp : s.SP + 1 - 1 = s.SP := BitVec.add_sub_cancel _ _
  have h0 : s.SP + 1 ≠ 0 := fun e => Nat.succ_ne_zero _ ((succ_toNat hlt).symm.trans (congrArg BitVec.toNat e))
  refine ⟨_, _, exec_call_push nnn hlt, exec_ret_pop h0 (by simpa [hsp] using hlt), ?_, hsp, ?_⟩
  · simp
  · constructor <;> simp [State.readMem]

/-! ## Skips -/

theorem keepsAllBut_skip (s : State) (c : Bool) : KeepsAllBut [.PC] s (s.advance.skipIf c) := by
  constructor <;> simp

theorem skip_PC (s : State) (c : Bool) : (s.advance.skipIf c).PC = if c then s.PC + 4 else s.PC + 2 := by
  rw [State.skipIf_PC, State.advance_PC, BitVec.add_assoc]
  rfl

/-- What the skips share, for the condition `p` that `c` tests. -/
theorem skips_of_exec_eq {i : Instr} {c : Bool} {p : Prop} (h : exec i s = .next (s.advance.skipIf c))
    (hc : c = true ↔ p) :
    ∃ t, exec i s = .next t ∧ KeepsAllBut [.PC] s t ∧ (p → t.PC = s.PC + 4) ∧ (¬p → t.PC = s.PC + 2) := by
  refine ⟨_, h, keepsAllBut_skip s c, fun hp => ?_, fun hp => ?_⟩ <;> rw [skip_PC]
  · exact if_pos (hc.mpr hp)
  · exact if_neg (mt hc.mp hp)

/-- The same for a condition that fails when `c` holds. -/
theorem skips_unless_of_exec_eq {i : Instr} {c : Bool} {p : Prop} (h : exec i s = .next (s.advance.skipIf c))
    (hc : c = true ↔ ¬p) :
    ∃ t, exec i s = .next t ∧ KeepsAllBut [.PC] s t ∧ (p → t.PC = s.PC + 2) ∧ (¬p → t.PC = s.PC + 4) := by
  obtain ⟨t, ht, hkeep, hskip, hnot⟩ := skips_of_exec_eq h hc
  exact ⟨t, ht, hkeep, fun hp => hnot (not_not_intro hp), hskip⟩

theorem exec_seImm (x : Reg) (kk : Byte) (s : State) :
    exec (.seImm x kk) s = .next (s.advance.skipIf (s.reg x == kk)) := rfl

theorem exec_sneImm (x : Reg) (kk : Byte) (s : State) :
    exec (.sneImm x kk) s = .next (s.advance.skipIf (s.reg x != kk)) := rfl

theorem exec_seReg (x y : Reg) (s : State) :
    exec (.seReg x y) s = .next (s.advance.skipIf (s.reg x == s.reg y)) := rfl

theorem exec_sneReg (x y : Reg) (s : State) :
    exec (.sneReg x y) s = .next (s.advance.skipIf (s.reg x != s.reg y)) := rfl

/-- Settles O29: each compare is a skip on its own condition. -/
theorem comparesSkipOneWord : Obligations.ComparesSkipOneWord := fun x y kk s =>
  ⟨encodedAs_row _, encodedAs_row _, encodedAs_row _, encodedAs_row _,
    skips_of_exec_eq (exec_seImm x kk s) beq_iff_eq, skips_unless_of_exec_eq (exec_sneImm x kk s) bne_iff_ne,
    skips_of_exec_eq (exec_seReg x y s) beq_iff_eq, skips_unless_of_exec_eq (exec_sneReg x y s) bne_iff_ne⟩

/-- Settles O50: with a key code in Vx each is a skip on the tick's key set, and above 15 each is fatal. -/
theorem keySkipsReadTheTicksKeys : Obligations.KeySkipsReadTheTicksKeys := by
  refine fun x s => ⟨encodedAs_row _, encodedAs_row _,
    fun k hk => ?_, fun hk => ⟨haltsOnly_of_exec_eq (exec_skp_fatal hk), haltsOnly_of_exec_eq (exec_sknp_fatal hk)⟩⟩
  have hlt : (s.reg x).toNat < 16 := by omega
  have hcode : (⟨(s.reg x).toNat, hlt⟩ : KeyCode) = k := Fin.ext hk
  refine ⟨⟨_, exec_skp_code hlt, keepsAllBut_skip s _, ?_⟩, ⟨_, exec_sknp_code hlt, keepsAllBut_skip s _, ?_⟩⟩
  · rw [skip_PC, hcode]
  · rw [skip_PC, hcode]
    cases isPressed s.keys k <;> rfl

end

end Sys2Proof.Machine
end

section
/-! The instructions that write a flag and the random draw (spec/42_alu.md R147 to R153). -/

namespace Sys2Proof.Machine

section
variable {s : State}

/-! ## The next states and their frames -/

theorem exec_addReg (x y : Reg) (s : State) :
    exec (.addReg x y) s = .next (s.advance.latchedFlagThenResult carryFlag (fun a b => a + b) x y) := rfl

theorem exec_sub (x y : Reg) (s : State) :
    exec (.sub x y) s = .next (s.advance.flagThenResult aboveFlag (fun a b => a - b) x y) := rfl

theorem exec_subn (x y : Reg) (s : State) :
    exec (.subn x y) s = .next (s.advance.flagThenResult (fun a b => aboveFlag b a) (fun a b => b - a) x y) := rfl

theorem exec_shr (x y : Reg) (s : State) :
    exec (.shr x y) s = .next (s.advance.flagThenResult (fun a _ => lowBitFlag a) (fun a _ => a >>> 1) x x) := rfl

theorem exec_shl (x y : Reg) (s : State) :
    exec (.shl x y) s = .next (s.advance.flagThenResult (fun a _ => highBitFlag a) (fun a _ => a <<< 1) x x) := rfl

theorem exec_rnd (x : Reg) (kk : Byte) (s : State) :
    exec (.rnd x kk) s = .next (s.advance.takeDraw.setReg x (s.nextDraw &&& kk)) := rfl

section
variable (f g : Byte → Byte → Byte) (x y : Reg)

theorem keepsAllBut_latchedFlagThenResult :
    KeepsAllBut [.V, .PC] s (s.advance.latchedFlagThenResult f g x y) := by
  constructor <;> simp

theorem keepsAllBut_flagThenResult : KeepsAllBut [.V, .PC] s (s.advance.flagThenResult f g x y) := by
  constructor <;> simp

theorem keepsRegsBut_latchedFlagThenResult :
    KeepsRegsBut [x, 15] s (s.advance.latchedFlagThenResult f g x y) := by
  intro r hr
  obtain ⟨hx, hF⟩ : r ≠ x ∧ r ≠ 15 := by simpa using hr
  simp [State.reg_latchedFlagThenResult, hx, hF]

theorem keepsRegsBut_flagThenResult : KeepsRegsBut [x, 15] s (s.advance.flagThenResult f g x y) := by
  intro r hr
  obtain ⟨hx, hF⟩ : r ≠ x ∧ r ≠ 15 := by simpa using hr
  simp [State.reg_flagThenResult, hx, hF]

/-! The two registers that the order of flag and result writes, by which of the operands is VF (R140). -/

theorem flagThenResult_flag (hx : x ≠ 15) :
    (s.advance.flagThenResult f g x y).reg 15 = f (s.reg x) (s.reg y) := by
  simp [State.reg_flagThenResult, Ne.symm hx]

theorem flagThenResult_result (hx : x ≠ 15) (hy : y ≠ 15) :
    (s.advance.flagThenResult f g x y).reg x = g (s.reg x) (s.reg y) := by
  simp [State.reg_flagThenResult, hx, hy]

theorem flagThenResult_VF_left (hy : y ≠ 15) :
    (s.advance.flagThenResult f g 15 y).reg 15 = g (f (s.reg 15) (s.reg y)) (s.reg y) := by
  simp [State.reg_flagThenResult, hy]

theorem flagThenResult_VF_right (hx : x ≠ 15) :
    (s.advance.flagThenResult f g x 15).reg x = g (s.reg x) (f (s.reg x) (s.reg 15)) := by
  simp [State.reg_flagThenResult, hx]

theorem flagThenResult_VF_both :
    (s.advance.flagThenResult f g 15 15).reg 15 = g (f (s.reg 15) (s.reg 15)) (f (s.reg 15) (s.reg 15)) := by
  simp [State.reg_flagThenResult]

end

/-! ## Addition and subtraction -/

/-- Settles O33: the flag and the sum are both of the old values. -/
theorem addSetsTheCarry : Obligations.AddSetsTheCarry := by
  refine fun x y s => ⟨encodedAs_row _, _, exec_addReg x y s, ?_, fun hx => ?_,
    keepsRegsBut_latchedFlagThenResult _ _ x y, keepsAllBut_latchedFlagThenResult _ _ x y⟩
  · rw [State.reg_latchedFlagThenResult, if_pos rfl]
    exact BitVec.toNat_add _ _
  · rw [State.reg_latchedFlagThenResult, if_neg (Ne.symm hx), if_pos rfl]
    exact carryFlag_eq _ _

theorem isMod256_sub (a b : Byte) : IsMod256 (a - b) (256 + a.toNat - b.toNat) := by
  have hb := b.isLt
  rw [IsMod256, BitVec.toNat_sub]
  congr 1
  omega

/-- What SUB and SUBN share, for a flag `n` and a difference `m`: the flag is written first, so where an operand is VF the
difference reads the flag in its place (R140). -/
theorem subtracts_of_exec_eq {i : Instr} {x y : Reg} {f g : Byte → Byte → Byte} {n : Nat} {m : Nat → Nat → Nat}
    (h : exec i s = .next (s.advance.flagThenResult f g x y)) (hf : (f (s.reg x) (s.reg y)).toNat = n)
    (hg : ∀ a b, IsMod256 (g a b) (m a.toNat b.toNat)) (hself : ∀ a, g a a = 0) :
    ∃ t, exec i s = .next t ∧ KeepsRegsBut [x, 15] s t ∧ KeepsAllBut [.V, .PC] s t ∧
      (x ≠ 15 → y ≠ 15 → (t.reg 15).toNat = n ∧ IsMod256 (t.reg x) (m (s.reg x).toNat (s.reg y).toNat)) ∧
      (x = 15 → y ≠ 15 → IsMod256 (t.reg 15) (m n (s.reg y).toNat)) ∧
      (x ≠ 15 → y = 15 → (t.reg 15).toNat = n ∧ IsMod256 (t.reg x) (m (s.reg x).toNat n)) ∧
      (x = 15 → y = 15 → t.reg 15 = 0) := by
  subst hf
  refine ⟨_, h, keepsRegsBut_flagThenResult f g x y, keepsAllBut_flagThenResult f g x y, ?_, ?_, ?_, ?_⟩
  · intro hx hy
    rw [flagThenResult_flag f g x y hx, flagThenResult_result f g x y hx hy]
    exact ⟨rfl, hg _ _⟩
  · rintro rfl hy
    rw [flagThenResult_VF_left f g y hy]
    exact hg _ _
  · rintro hx rfl
    rw [flagThenResult_flag f g x 15 hx, flagThenResult_VF_right f g x hx]
    exact ⟨rfl, hg _ _⟩
  · rintro rfl rfl
    rw [flagThenResult_VF_both]
    exact hself _

/-- Settles O34: both are a strict flag and then a difference, the second with its operands exchanged. -/
theorem subtractionsSetAStrictFlag : Obligations.SubtractionsSetAStrictFlag := by
  rintro x y s _ _ _ _ rfl rfl rfl rfl
  refine ⟨encodedAs_row _, encodedAs_row _, ?_, ?_⟩
  · exact subtracts_of_exec_eq (m := fun a b => 256 + a - b) (exec_sub x y s) (aboveFlag_toNat _ _)
      (fun a b => isMod256_sub a b) fun a => BitVec.sub_self a
  · exact subtracts_of_exec_eq (m := fun a b => 256 + b - a) (exec_subn x y s) (aboveFlag_toNat _ _)
      (fun a b => isMod256_sub b a) fun a => BitVec.sub_self a

/-! ## Shifts -/

theorem isMod256_shiftLeft_one (a : Byte) : IsMod256 (a <<< 1) (2 * a.toNat) := by
  rw [IsMod256, BitVec.toNat_shiftLeft, Nat.shiftLeft_eq]
  omega

/-- Settles O35: the order of flag and result, at the bit shifted out and the shifted value. -/
theorem shiftsPutTheBitOutInVF : Obligations.ShiftsPutTheBitOutInVF := by
  refine fun x y s => ⟨encodedAs_row _, encodedAs_row _,
    fun _ => ⟨rfl, rfl⟩,
    ⟨_, exec_shr x y s, keepsRegsBut_flagThenResult _ _ x x, keepsAllBut_flagThenResult _ _ x x, fun hx => ?_, ?_⟩,
    ⟨_, exec_shl x y s, keepsRegsBut_flagThenResult _ _ x x, keepsAllBut_flagThenResult _ _ x x, fun hx => ?_, ?_⟩⟩
  · rw [flagThenResult_flag _ _ x x hx, flagThenResult_result _ _ x x hx hx]
    exact ⟨by rw [BitVec.toNat_ushiftRight, Nat.shiftRight_one], lowBitFlag_toNat _⟩
  · rintro rfl
    rw [flagThenResult_VF_both]
    exact lowBitFlag_shifted _
  · rw [flagThenResult_flag _ _ x x hx, flagThenResult_result _ _ x x hx hx]
    exact ⟨isMod256_shiftLeft_one _, highBitFlag_toNat _⟩
  · rintro rfl
    rw [flagThenResult_VF_both]
    exact highBitFlag_shifted _

/-! ## Random -/

/-- Settles O36: the byte under the mask is the next draw. -/
theorem randomTakesOneDrawUnderTheMask : Obligations.RandomTakesOneDrawUnderTheMask := by
  refine fun x kk s => ⟨encodedAs_row _, _, s.nextDraw, exec_rnd x kk s, fun b => ?_,
    fun r rest h => ?_, rfl, rfl, rfl, fun r hr => ?_, ?_⟩
  · rw [State.reg_setReg_same, BitVec.getLsbD_and]
  · simp [State.nextDraw, h]
  · exact State.reg_setReg_ne _ _ _ _ (by simpa using hr)
  · constructor <;> simp

/-! ## The values of VF (R153) -/

theorem aboveFlag_cases (a b : Byte) : aboveFlag a b = 0 ∨ aboveFlag a b = 1 := flagOf_cases _

theorem lowBitFlag_cases (a : Byte) : lowBitFlag a = 0 ∨ lowBitFlag a = 1 := by
  have h : (lowBitFlag a).toNat < 2 := by rw [lowBitFlag_toNat]; omega
  rcases Nat.lt_succ_iff_lt_or_eq.mp h with h | h
  · exact .inl (BitVec.eq_of_toNat_eq (Nat.lt_one_iff.mp h))
  · exact .inr (BitVec.eq_of_toNat_eq h)

theorem highBitFlag_cases (a : Byte) : highBitFlag a = 0 ∨ highBitFlag a = 0x80 := by
  have h := highBitFlag_toNat a
  split at h
  · exact .inr (BitVec.eq_of_toNat_eq h)
  · exact .inl (BitVec.eq_of_toNat_eq h)

/-- An instruction that neither writes a flag nor names VF as its destination cannot write VF. -/
theorem mayWrite_VF {i : Instr} (hf : i.writesFlag = false) (hn : i.namesVF = false) : i.mayWrite 15 = false := by
  cases i with
  | ldImm x | addImm x | ldReg x | orReg x | andReg x | xorReg x | rnd x | ldVxDt x | ldVxK x =>
    have hx : x ≠ 15 := by simpa [Instr.namesVF] using hn
    simpa [Instr.mayWrite] using Ne.symm hx
  | loadRegs x =>
    have hx : x ≠ 15 := by simpa [Instr.namesVF] using hn
    exact decide_eq_false fun hle => hx (le_antisymm (Fin.le_last x) hle)
  | addReg | sub | shr | subn | shl | drw => cases hf
  | _ => rfl

/-- Settles O37: the flag of each instruction is a flag computation, and every other write of VF is a named one. -/
theorem flagValuesAndNoOtherWriteOfVF : Obligations.FlagValuesAndNoOtherWriteOfVF := by
  refine ⟨fun x y n s t i hi h => ?_, fun x y s t hx h => ?_, fun i s t hf hn h => ?_⟩
  · rcases hi with ⟨hi, hx⟩ | rfl
    · simp only [List.mem_cons, List.not_mem_nil, or_false] at hi
      rcases hi with rfl | rfl | rfl | rfl <;> cases h
      · rw [State.reg_latchedFlagThenResult, if_neg (Ne.symm hx), if_pos rfl]; exact flagOf_cases _
      · rw [flagThenResult_flag _ _ x y hx]; exact aboveFlag_cases _ _
      · rw [flagThenResult_flag _ _ x x hx]; exact lowBitFlag_cases _
      · rw [flagThenResult_flag _ _ x y hx]; exact aboveFlag_cases _ _
    · cases h
      exact (State.reg_setReg_same _ _ _).symm ▸ flagOf_cases _
  · cases h
    rw [flagThenResult_flag _ _ x x hx]
    exact highBitFlag_cases _
  · by_contra hne
    have hw := mayWrite_of_exec h hne
    rw [mayWrite_VF hf hn] at hw
    cases hw

end

end Sys2Proof.Machine
end

section
/-! The index register's sum, the stores and loads at I, the timers and the key wait (spec/43_index_memory.md R170 to R176,
spec/45_timers_keys.md R213 to R216). -/

namespace Sys2Proof.Machine

section
variable {s : State}

/-- Settles O39: a 16-bit sum, and a byte widened is its own value. -/
theorem addToIndexWrapsAtSixteenBits : Obligations.AddToIndexWrapsAtSixteenBits := by
  refine fun x s => ⟨encodedAs_row _, s.advance.setIndex (s.I + zext16 (s.reg x)), rfl, ?_,
    keepsAllBut_advance_setIndex s _⟩
  rw [State.setIndex_I, BitVec.toNat_add, BitVec.toNat_setWidth_of_le (by decide)]

/-! ## Stores and loads at I -/

/-- The reduced address of the byte at offset `k` from I (R170). -/
theorem physical_indexed (s : State) (k : Nat) : physical (s.indexed 0 + BitVec.ofNat 16 k) = s.dataAddress k := by
  rw [State.indexed_zero]
  exact physical_add s.I k

/-- A store at I puts its `k`th byte at offset `k`. -/
theorem read_storeBytes_dataAddress (s : State) (bytes : List Byte) (hl : bytes.length ≤ 4096) (k : Nat)
    (hk : k < bytes.length) : (s.advance.storeBytes (s.indexed 0) bytes).mem.read (s.dataAddress k) = bytes[k] := by
  rw [← physical_indexed]
  exact s.mem.read_writeBytes_at (s.indexed 0) bytes hl k hk

/-- A store at I leaves every address but those of its bytes alone. -/
theorem read_storeBytes_elsewhere (s : State) (bytes : List Byte) (a : Nat)
    (ha : ∀ k, k < bytes.length → a ≠ s.dataAddress k) :
    (s.advance.storeBytes (s.indexed 0) bytes).mem.read a = s.mem.read a :=
  s.mem.read_writeBytes_outside (s.indexed 0) bytes a fun k hk => by rw [physical_indexed]; exact ha k hk

theorem keepsAllBut_advance_storeBytes (s : State) (base : Word16) (bytes : List Byte) :
    KeepsAllBut [.mem, .PC] s (s.advance.storeBytes base bytes) := by
  constructor <;> simp

theorem exec_ldB (x : Reg) (s : State) :
    exec (.ldB x) s = .next (s.advance.storeBytes (s.indexed 0) (decimalDigits (s.reg x))) := rfl

theorem exec_storeRegs (x : Reg) (s : State) :
    exec (.storeRegs x) s = .next (s.advance.storeBytes (s.indexed 0) (s.regsUpTo x)) := rfl

/-- Settles O40: the three digits are the three bytes stored. -/
theorem decimalDigitsAreStored : Obligations.DecimalDigitsAreStored := by
  intro x s
  have hbyte := read_storeBytes_dataAddress s (decimalDigits (s.reg x)) (by simp [decimalDigits])
  have hdigits := decimalDigits_toNat (s.reg x)
  injection hdigits with h100 hdigits
  injection hdigits with h10 hdigits
  injection hdigits with h1 _
  refine ⟨encodedAs_row _, _, exec_ldB x s, ?_, ?_, ?_,
    fun a ha => read_storeBytes_elsewhere s _ a ha, keepsAllBut_advance_storeBytes s _ _⟩
  · exact (congrArg BitVec.toNat (hbyte 0 (by simp [decimalDigits]))).trans h100
  · exact (congrArg BitVec.toNat (hbyte 1 (by simp [decimalDigits]))).trans h10
  · exact (congrArg BitVec.toNat (hbyte 2 (by simp [decimalDigits]))).trans h1

theorem regsUpTo_length_le (s : State) (x : Reg) : (s.regsUpTo x).length ≤ 4096 := by
  rw [State.regsUpTo_length]; omega

/-- What Fx55 stores at each offset. -/
theorem read_storeRegs {t : State} {x r : Reg} (h : exec (.storeRegs x) s = .next t) (hr : r ≤ x) :
    t.mem.read (s.dataAddress r.val) = s.reg r := by
  cases h
  have hlt : r.val < (s.regsUpTo x).length := by rw [State.regsUpTo_length]; exact Nat.lt_succ_of_le hr
  exact (read_storeBytes_dataAddress s _ (regsUpTo_length_le s x) r.val hlt).trans (s.regsUpTo_get x r hr)

/-- Settles O41: the byte at offset `r` is Vr, and the offsets are those of V0..Vx. -/
theorem registersAreStored : Obligations.RegistersAreStored := by
  refine fun x s => ⟨encodedAs_row _, _, exec_storeRegs x s,
    fun r hr => read_storeRegs (exec_storeRegs x s) hr, fun a ha => ?_, keepsAllBut_advance_storeBytes s _ _⟩
  refine read_storeBytes_elsewhere s _ a fun k hk => ?_
  have hkx : k < x.val + 1 := by rwa [State.regsUpTo_length] at hk
  exact ha ⟨k, by omega⟩ (Fin.mk_le_of_le_val (Nat.lt_succ_iff.mp hkx))

/-- What Fx65 loads into each register up to Vx. -/
theorem reg_loadRegs {t : State} {x r : Reg} (h : exec (.loadRegs x) s = .next t) (hr : r ≤ x) :
    t.reg r = s.mem.read (s.dataAddress r.val) := by
  cases h
  have hlt : r.val < x.val + 1 := Nat.lt_succ_of_le hr
  rw [State.reg_loadBlock, List.getD_eq_getElem _ _ (by simpa using hlt), State.readBytes_get _ _ _ _ hlt,
    ← physical_indexed]
  rfl

/-- Settles O42: the registers that the bytes reach are loaded, the others are left. -/
theorem registersAreLoaded : Obligations.RegistersAreLoaded := by
  refine fun x s => ⟨encodedAs_row _, _, exec_loadRegs x s,
    fun r hr => reg_loadRegs (exec_loadRegs x s) hr, fun r hr => ?_, ?_⟩
  · rw [State.reg_loadBlock, List.getD_eq_default _ _ (by simpa using hr), State.advance_reg]
  · constructor <;> simp

/-- Settles O43: with the same I, Fx65 reads the bytes that Fx55 stored. -/
theorem storeThenLoadRoundTrips : Obligations.StoreThenLoadRoundTrips := by
  intro x s t u w hstore hI hmem hload r hr
  have haddr : u.dataAddress r.val = s.dataAddress r.val := by rw [State.dataAddress, hI]; rfl
  rw [reg_loadRegs hload hr, hmem, haddr, read_storeRegs hstore hr]

/-- Settles O44: the first two bytes that Fx55 stores stand where the next word is fetched. -/
theorem storedWordIsFetchedNext : Obligations.StoredWordIsFetchedNext := by
  intro x s t hx haddr h
  have hr1 : (1 : Reg) ≤ x := hx
  have h0 : t.mem.read (s.dataAddress 0) = s.reg 0 := read_storeRegs h (Fin.zero_le x)
  have h1 : t.mem.read (s.dataAddress 1) = s.reg 1 := read_storeRegs h hr1
  have hPC : t.PC.toNat = (s.PC.toNat + 2) % 65536 := by
    rw [ordinaryInstructionsAdvanceByTwo _ s t rfl h]; exact BitVec.toNat_add _ _
  have a0 : t.PC.toNat % 4096 = s.dataAddress 0 := by rw [State.dataAddress]; omega
  have a1 : (t.PC.toNat + 1) % 4096 = s.dataAddress 1 := by rw [State.dataAddress]; omega
  rw [fetch_eq, a0, a1, h0, h1]

/-! ## Timers -/

/-- Settles O52: Fx07 writes Vx alone, and the other two write one timer. -/
theorem timersAreReadAndSet : Obligations.TimersAreReadAndSet := by
  refine fun x s => ⟨encodedAs_row _, encodedAs_row _, encodedAs_row _,
    writesVx_of_exec_eq (v := s.DT) (P := (· = s.DT)) rfl rfl,
    ⟨s.advance.setDelay (s.reg x), rfl, rfl, ?_⟩, ⟨s.advance.setSound (s.reg x), rfl, rfl, ?_⟩⟩
  · constructor <;> simp
  · constructor <;> simp

/-! ## The key wait -/

/-- Fx0A with a key chosen writes its code to Vx alone. -/
theorem keyWait_stores (x : Reg) {k : KeyCode} (hk : selectKey s.cfg.keyPicks s.keys = some k) :
    ∃ t, exec (.ldVxK x) s = .next t ∧ (t.reg x).toNat = k.val ∧ KeepsRegsBut [x] s t ∧ KeepsAllBut [.V, .PC] s t :=
  writesVx_of_exec_eq (P := (·.toNat = k.val)) (exec_ldVxK_store x hk) (keyCode_toNat k)

/-- Settles O51, by whether a key is down. -/
theorem keyWaitStoresAPressedKeyOrBlocks : Obligations.KeyWaitStoresAPressedKeyOrBlocks := by
  refine fun x s => ⟨encodedAs_row _, fun ⟨k, hk⟩ => ?_, fun hup => ?_⟩
  · obtain ⟨l, hl, hdown⟩ := selectKey_some_of_pressed s.cfg.keyPicks hk
    obtain ⟨t, ht, hreg, hrest⟩ := keyWait_stores x hl
    exact ⟨t, l, ht, hdown, hreg, hrest⟩
  · refine ⟨_, exec_ldVxK_block x ((selectKey_none_iff _ _).mpr hup), rfl, rfl, ?_⟩
    constructor <;> simp

/-- Every key set with the member that `f` gives of it. -/
noncomputable def picksOf (f : KeySet → KeyCode) : List (KeySet × KeyCode) :=
  (Finset.univ : Finset (Fin 16 → Bool)).toList.map fun down => (Vector.ofFn down, f (Vector.ofFn down))

theorem mem_picksOf (f : KeySet → KeyCode) (keys : KeySet) (k : KeyCode) : (keys, k) ∈ picksOf f ↔ k = f keys := by
  simp only [picksOf, List.mem_map, Finset.mem_toList, Finset.mem_univ, true_and, Prod.mk.injEq]
  constructor
  · rintro ⟨down, rfl, rfl⟩; rfl
  · rintro rfl
    have hkeys : Vector.ofFn (fun j : Fin 16 => keys[j.val]) = keys := by ext j hj; simp
    exact ⟨fun j => keys[j.val], hkeys, by rw [hkeys]⟩

/-- The table makes `select_key` the function it lists. -/
theorem selectKey_picksOf {f : KeySet → KeyCode} {keys : KeySet} (h : isPressed keys (f keys) = true) :
    selectKey (picksOf f) keys = some (f keys) := by
  rcases selectKey_cases (picksOf f) keys with ⟨k, hk, -, hs⟩ | ⟨hup, -⟩
  · rw [hs, (mem_picksOf f keys k).mp hk]
  · rw [hup _ ((mem_picksOf f keys _).mpr rfl)] at h; cases h

/-- Settles O54: the table lists every key set, so both Fx0A and the poll store what it gives. -/
theorem newSessionTakesItsOwnSelectKey : Obligations.NewSessionTakesItsOwnSelectKey := by
  intro f hf
  refine ⟨picksOf f, fun font speed wrapY bytes hl => ⟨_, loadProgram_ok _ hl, rfl⟩, fun s x k hpicks hk => ?_⟩
  have hselect : selectKey s.cfg.keyPicks s.keys = some (f s.keys) := by
    rw [hpicks]; exact selectKey_picksOf (hf _ _ hk)
  exact ⟨keyWait_stores x hselect, fun left hs hp => step_poll_store hs hp hselect⟩

end

end Sys2Proof.Machine
end

section
/-! The sprite draw: which pixels it flips, what VF tells, and the laws of two draws and of rows past the edge
(spec/44_display.md R193 to R199). -/

namespace Sys2Proof.Machine

section
variable {s t u : State} {x y : Reg} {n : Height}

/-- The pixels that a draw toggles: those that a set bit of the sprite at I falls on. -/
def State.drawTargets (s : State) (x y : Reg) (n : Height) : List Pixel :=
  spriteTargets s.cfg.wrapY (s.reg y).toNat (s.reg x).toNat (s.readBytes (s.indexed 0) n.val)

theorem drawTargets_nodup (s : State) (x y : Reg) (n : Height) : (s.drawTargets x y n).Nodup :=
  spriteTargets_nodup _ _ _ _ (by rw [State.readBytes_length]; omega)

/-- The toggled pixels are those of the statements' `SpriteHits`. -/
theorem mem_drawTargets (s : State) (x y : Reg) (n : Height) (p : Pixel) :
    p ∈ s.drawTargets x y n ↔ s.SpriteHits (s.reg y) (s.reg x) n.val p := by
  have hbyte : ∀ r (hr : r < n.val), (s.readBytes (s.indexed 0) n.val)[r]'(by simpa using hr) =
      s.mem.read (s.dataAddress r) := by
    intro r hr
    rw [State.readBytes_get s _ _ r hr, State.readMem, physical_indexed]
  simp only [State.drawTargets, mem_spriteTargets, mem_rowTargets, State.readBytes_length]
  constructor
  · rintro ⟨r, hr, hrow, c, hc, hbit, hcol⟩
    rw [hbyte r hr] at hbit
    exact ⟨r, c, hr, hc, hbit, hcol, hrow⟩
  · rintro ⟨r, c, hr, hc, hbit, hcol, hrow⟩
    exact ⟨r, hr, hrow, c, hc, by rw [hbyte r hr]; exact hbit, hcol⟩

/-! ## One draw -/

theorem fb_draw (h : exec (.drw x y n) s = .next t) : t.fb = (toggleAll (s.drawTargets x y n) (s.fb, false)).1 := by
  cases h; rfl

theorem VF_draw (h : exec (.drw x y n) s = .next t) :
    t.reg 15 = flagOf (toggleAll (s.drawTargets x y n) (s.fb, false)).2 := by
  cases h; exact State.reg_setReg_same _ _ _

theorem reg_draw (h : exec (.drw x y n) s = .next t) {r : Reg} (hr : r ≠ 15) : t.reg r = s.reg r := by
  cases h; exact State.reg_setReg_ne _ _ _ _ hr

/-- A pixel that is hit flips. -/
theorem pixelAt_draw_hit (h : exec (.drw x y n) s = .next t) {p : Pixel}
    (hp : s.SpriteHits (s.reg y) (s.reg x) n.val p) : pixelAt t.fb p = !pixelAt s.fb p := by
  rw [fb_draw h, pixelAt_toggleAll _ (drawTargets_nodup s x y n), decide_eq_true ((mem_drawTargets s x y n p).mpr hp),
    Bool.xor_true]

/-- A pixel that is not hit stays. -/
theorem pixelAt_draw_miss (h : exec (.drw x y n) s = .next t) {p : Pixel}
    (hp : ¬ s.SpriteHits (s.reg y) (s.reg x) n.val p) : pixelAt t.fb p = pixelAt s.fb p := by
  rw [fb_draw h, pixelAt_toggleAll _ (drawTargets_nodup s x y n),
    decide_eq_false (mt (mem_drawTargets s x y n p).mp hp), Bool.xor_false]

/-- The draw collides exactly when a pixel that is hit was set. -/
theorem collision_draw (s : State) (x y : Reg) (n : Height) :
    (toggleAll (s.drawTargets x y n) (s.fb, false)).2 = true ↔
      ∃ p, s.SpriteHits (s.reg y) (s.reg x) n.val p ∧ pixelAt s.fb p = true := by
  rw [toggleAll_collision _ (drawTargets_nodup s x y n), Bool.false_or, List.any_eq_true]
  exact exists_congr fun p => and_congr_left' (mem_drawTargets s x y n p)

theorem VF_draw_eq_one_iff (h : exec (.drw x y n) s = .next t) :
    t.reg 15 = 1 ↔ ∃ p, s.SpriteHits (s.reg y) (s.reg x) n.val p ∧ pixelAt s.fb p = true := by
  rw [← collision_draw, VF_draw h]
  cases (toggleAll (s.drawTargets x y n) (s.fb, false)).2 <;> simp [flagOf]

theorem VF_draw_eq_zero (h : exec (.drw x y n) s = .next t)
    (hnone : ∀ p, s.SpriteHits (s.reg y) (s.reg x) n.val p → pixelAt s.fb p = false) : t.reg 15 = 0 := by
  have hc : (toggleAll (s.drawTargets x y n) (s.fb, false)).2 = false := by
    rw [Bool.eq_false_iff, ne_eq, collision_draw]
    rintro ⟨p, hp, hset⟩
    rw [hnone p hp] at hset; cases hset
  rw [VF_draw h, hc]
  rfl

theorem exec_drw_next (x y : Reg) (n : Height) (s : State) : ∃ t, exec (.drw x y n) s = .next t := ⟨_, rfl⟩

theorem keepsAllBut_draw (h : exec (.drw x y n) s = .next t) : KeepsAllBut [.V, .fb, .PC] s t := by
  cases h; constructor <;> simp

/-- Settles O47: the toggled pixels are distinct, so each that is hit flips once. -/
theorem drawFlipsTheMappedBits : Obligations.DrawFlipsTheMappedBits := by
  intro x y n s
  obtain ⟨t, h⟩ := exec_drw_next x y n s
  exact ⟨encodedAs_row _, t, h, fun p => pixelAt_draw_hit h, fun p => pixelAt_draw_miss h,
    (VF_draw_eq_one_iff h).mpr, VF_draw_eq_zero h, fun r hr => reg_draw h (by simpa using hr), keepsAllBut_draw h⟩

/-! ## Two draws (R198) -/

/-- With VF no coordinate, the second draw hits what the first hit. -/
theorem spriteHits_second_draw (hx : x ≠ 15) (hy : y ≠ 15) (h : exec (.drw x y n) s = .next t) (p : Pixel) :
    t.SpriteHits (t.reg y) (t.reg x) n.val p ↔ s.SpriteHits (s.reg y) (s.reg x) n.val p := by
  rw [reg_draw h hx, reg_draw h hy]
  cases h
  rfl

theorem pixelAt_ext {fb fb' : FrameBuffer} (h : ∀ p, pixelAt fb p = pixelAt fb' p) : fb = fb' := by
  ext r hr c hc
  exact h (⟨r, hr⟩, ⟨c, hc⟩)

/-- Settles O48: each pixel that is hit flips twice, and it is set for the second draw exactly if the first set it. -/
theorem drawingTwiceRestoresTheBuffer : Obligations.DrawingTwiceRestoresTheBuffer := by
  intro x y n s t u hx hy hst htu
  have hits := spriteHits_second_draw hx hy hst
  refine ⟨pixelAt_ext fun p => ?_, ?_⟩
  · by_cases hp : s.SpriteHits (s.reg y) (s.reg x) n.val p
    · rw [pixelAt_draw_hit htu ((hits p).mpr hp), pixelAt_draw_hit hst hp, Bool.not_not]
    · rw [pixelAt_draw_miss htu (mt (hits p).mp hp), pixelAt_draw_miss hst hp]
  · rw [VF_draw_eq_one_iff htu]
    refine exists_congr fun p => ?_
    rw [hits p]
    by_cases hp : s.SpriteHits (s.reg y) (s.reg x) n.val p
    · simp [hp, pixelAt_draw_hit hst hp]
    · simp [hp, pixelAt_draw_miss hst hp]

/-! ## Rows past the edge (R199) -/

/-- The pixels that a sprite of height 4 at row 30 hits, by its row. -/
theorem spriteHits_at_row_thirty (s : State) (col0 : Byte) (p : Pixel) :
    s.SpriteHits 30 col0 4 p ↔
      ∃ r c, r < 4 ∧ c < 8 ∧ s.SpriteBit r c ∧ p.2.val = (col0.toNat + c) % 64 ∧
        (if s.cfg.wrapY then p.1.val = (30 + r) % 32 else p.1.val = 30 + r) := Iff.rfl

/-- Sprite rows 0 and 1 stand on rows 30 and 31, whether rows wrap or not. -/
theorem spriteHits_upper {r c : Nat} {p : Pixel} {col0 : Byte} (hr : r < 2) (hc : c < 8) (hbit : s.SpriteBit r c)
    (hrow : p.1.val = 30 + r) (hcol : p.2.val = (col0.toNat + c) % 64) : s.SpriteHits 30 col0 4 p := by
  refine (spriteHits_at_row_thirty s col0 p).mpr ⟨r, c, by omega, hc, hbit, hcol, ?_⟩
  split <;> omega

/-- Without `wrap_y` only sprite rows 0 and 1 hit a pixel. -/
theorem spriteHits_dropped (hw : s.cfg.wrapY = false) {p : Pixel} {col0 : Byte} (h : s.SpriteHits 30 col0 4 p) :
    ∃ r c, r < 2 ∧ c < 8 ∧ s.SpriteBit r c ∧ p.1.val = 30 + r ∧ p.2.val = (col0.toNat + c) % 64 := by
  obtain ⟨r, c, -, hc, hbit, hcol, hrow⟩ := (spriteHits_at_row_thirty s col0 p).mp h
  simp only [hw, Bool.false_eq_true, if_false] at hrow
  exact ⟨r, c, by omega, hc, hbit, hrow, hcol⟩

/-- With `wrap_y` sprite rows 2 and 3 stand on rows 0 and 1. -/
theorem spriteHits_wrapped (hw : s.cfg.wrapY = true) {r c : Nat} {p : Pixel} {col0 : Byte} (hr : r < 2) (hc : c < 8)
    (hbit : s.SpriteBit (2 + r) c) (hrow : p.1.val = r) (hcol : p.2.val = (col0.toNat + c) % 64) :
    s.SpriteHits 30 col0 4 p := by
  refine (spriteHits_at_row_thirty s col0 p).mpr ⟨2 + r, c, by omega, hc, hbit, hcol, ?_⟩
  rw [if_pos hw]
  omega

/-- With `wrap_y` no pixel off rows 30, 31, 0 and 1 is hit. -/
theorem row_of_spriteHits_wrapped (hw : s.cfg.wrapY = true) {p : Pixel} {col0 : Byte} (h : s.SpriteHits 30 col0 4 p) :
    p.1 = 30 ∨ p.1 = 31 ∨ p.1 = 0 ∨ p.1 = 1 := by
  obtain ⟨r, c, hr, -, -, -, hrow⟩ := (spriteHits_at_row_thirty s col0 p).mp h
  rw [if_pos hw] at hrow
  simp only [Fin.ext_iff]
  change p.1.val = 30 ∨ p.1.val = 31 ∨ p.1.val = 0 ∨ p.1.val = 1
  omega

/-- Settles O49: which pixels are hit, by the sprite's row, and so which flip. -/
theorem rowsWrapOrAreDropped : Obligations.RowsWrapOrAreDropped := by
  intro x y s t h30 h
  have hit : ∀ {p}, s.SpriteHits 30 (s.reg x) 4 p → pixelAt t.fb p = !pixelAt s.fb p :=
    fun hp => pixelAt_draw_hit h (by rw [h30]; exact hp)
  have miss : ∀ {p}, ¬ s.SpriteHits 30 (s.reg x) 4 p → pixelAt t.fb p = pixelAt s.fb p :=
    fun hp => pixelAt_draw_miss h (by rw [h30]; exact hp)
  refine ⟨fun r c p hr hc hbit hrow hcol => hit (spriteHits_upper hr hc hbit hrow hcol), fun hw => ⟨?_, ?_⟩,
    fun hw => ⟨?_, fun r c p hr hc hbit hrow hcol => hit (spriteHits_wrapped hw hr hc hbit hrow hcol)⟩⟩
  · intro p hp30 hp31
    refine miss fun hp => ?_
    obtain ⟨r, c, hr, -, -, hrow, -⟩ := spriteHits_dropped hw hp
    rw [ne_eq, Fin.ext_iff] at hp30 hp31
    change p.1.val ≠ 30 at hp30
    change p.1.val ≠ 31 at hp31
    omega
  · intro hclear
    refine VF_draw_eq_zero h fun p hp => ?_
    rw [h30] at hp
    obtain ⟨r, c, hr, hc, hbit, hrow, hcol⟩ := spriteHits_dropped hw hp
    exact hclear r c p hr hc hbit hrow hcol
  · intro p hp30 hp31 hp0 hp1
    refine miss fun hp => ?_
    rcases row_of_spriteHits_wrapped hw hp with e | e | e | e
    · exact hp30 e
    · exact hp31 e
    · exact hp0 e
    · exact hp1 e

end

end Sys2Proof.Machine
end
